-- ==== Sys2Proof/Word.lean ====
section
/-! DEFINITION. The word types of the block and the plainest helpers over them (00_scope.md R8, R10, R13). -/

namespace Sys2Proof

/-- A CSR word, command word or event word: 32 bits, bit 0 least significant (R8). -/
abbrev Word := BitVec 32

/-- A dibit, one of 0, 1, 2, 3 (R10, R40). -/
abbrev Dibit := BitVec 2

/-- An octet of a data block (46_packet_sequencer.md R262). -/
abbrev Octet := BitVec 8

/-- A 96-bit PDU header. Message bit `j` of R9 is `getMsbD j`: bit 0 is the first and most significant. -/
abbrev Header := BitVec 96

/-- A message of any length, message bit 0 first (R9). -/
abbrev Message := List Bool

end Sys2Proof
end

