-- ==== Sys2Proof/Config.lean ====
section
/-! DEFINITION. What an implementation fixes: the parameters of 00_scope.md R6 as one record of plain data, the FIXED
parameters, the reference configuration REFCFG, and the free values (the `Draw` of R12). -/

namespace Sys2Proof

/-- The OPEN parameters of R6. A model "takes each parameter as an argument": every state carries its configuration,
and statements over all states are statements over all configurations. `CSR_BASE` and `IRQ_ROUTE` are the platform's
(log 15). -/
structure Config where
  /-- DL_CAPACITY, the L of the delay line. -/
  dlCapacity : Nat
  /-- MAX_TEMPLATES. -/
  maxTemplates : Nat
  /-- MAX_TAPS. -/
  maxTaps : Nat
  /-- MAX_PAYLOAD_WORDS. -/
  maxPayloadWords : Nat
  /-- MAX_ENV_WINDOW. -/
  maxEnvWindow : Nat
  /-- EVQ_DEPTH, in words. -/
  evqDepth : Nat
  /-- CMDQ_DEPTH, in words. -/
  cmdqDepth : Nat
  /-- NUM_FILTER_IMPLS; id 0 is scalar. -/
  numFilterImpls : Nat
  /-- TRELLIS_STEPS, the S of a coded block. -/
  trellisSteps : Nat
  /-- TRELLIS_FLUSH, the F final steps whose input is forced to 0. -/
  trellisFlush : Nat
  /-- OUT12[s][u], 4 rows of 4 symbols. -/
  out12 : List (List (BitVec 4))
  /-- OUT34[s][u], 8 rows of 8 symbols. -/
  out34 : List (List (BitVec 4))
  /-- CRC16_POLY. -/
  crcPoly : BitVec 16
  /-- CRC16_INIT. -/
  crcInit : BitVec 16
  /-- CRC16_XOROUT. -/
  crcXorout : BitVec 16
  /-- HW_ID. -/
  hwId : Word
  /-- HW_REV. -/
  hwRev : Word
  /-- PG_TARGET_RST, binary32. -/
  pgTargetRst : Word
  /-- PG_MIN_RST, binary32. -/
  pgMinRst : Word
  /-- PG_MAX_RST, binary32. -/
  pgMaxRst : Word
  /-- PG_CEIL_RST, binary32. -/
  pgCeilRst : Word
  /-- PG_STEP_RST, binary32. -/
  pgStepRst : Word
  /-- PG_DECAY_RST, binary32. -/
  pgDecayRst : Word
  /-- PG_INIT_RST, binary32. -/
  pgInitRst : Word
  /-- EG_OBJ_RST, binary32. -/
  egObjRst : Word
  /-- EG_FLOOR_RST, binary32. -/
  egFloorRst : Word
  /-- EG_WINDOW_RST. -/
  egWindowRst : BitVec 16
  /-- SYNC_LOSS_THR_RST. -/
  syncLossThrRst : Word
  deriving DecidableEq, Repr

/-- MAX_TEMPLATE_DIBITS, FIXED 64 (R6). -/
def Config.maxTemplateDibits : Nat := 64

/-- MAX_BLOCKS, FIXED 127 (R6). -/
def Config.maxBlocks : Nat := 127

/-- REFCFG, the reference configuration of R6, with the toy trellis tables of 45_fec.md R236.
Used by `State.reset` (log 1, DESIGN CHOICE) and by the tests. -/
def Config.refcfg : Config where
  dlCapacity := 8
  maxTemplates := 2
  maxTaps := 8
  maxPayloadWords := 1024
  maxEnvWindow := 16
  evqDepth := 65536
  cmdqDepth := 64
  numFilterImpls := 2
  trellisSteps := 3
  trellisFlush := 1
  out12 := [[0, 5, 10, 15], [1, 4, 11, 14], [2, 7, 8, 13], [3, 6, 9, 12]]
  out34 := [[0, 3, 5, 6, 9, 10, 12, 15], [1, 2, 4, 7, 8, 11, 13, 14], [1, 2, 4, 7, 8, 11, 13, 14],
    [0, 3, 5, 6, 9, 10, 12, 15], [1, 2, 4, 7, 8, 11, 13, 14], [0, 3, 5, 6, 9, 10, 12, 15],
    [0, 3, 5, 6, 9, 10, 12, 15], [1, 2, 4, 7, 8, 11, 13, 14]]
  crcPoly := 0x1021
  crcInit := 0x0000
  crcXorout := 0xFFFF
  hwId := 0x47414E31
  hwRev := 0x00070000
  pgTargetRst := 0x3F000000
  pgMinRst := 0x3E800000
  pgMaxRst := 0x40800000
  pgCeilRst := 0x3F800000
  pgStepRst := 0x3E800000
  pgDecayRst := 0x3F000000
  pgInitRst := 0x3F800000
  egObjRst := 0x3F000000
  egFloorRst := 0x3E000000
  egWindowRst := 4
  syncLossThrRst := 3

/-- The free values: `freeWord n` is the `n`-th draw of a run, "a value chosen by the environment, under no law" (R12).
It has no body, so a proof about the machine holds for every choice of draws (log 6, DESIGN CHOICE, safe). -/
opaque Config.freeWord : Nat → Word

/-- What the 32-bit register at a byte offset reads for a count of 2^32 or more, which the spec does not state. It has no body
(log 26, DESIGN CHOICE, safe). -/
opaque Config.unstatedCount : BitVec 12 → Nat → Word

end Sys2Proof
end

