-- ==== Sys2Proof/Machine/Operands.lean ====
section
/-! DEFINITION. The payload element formats of 30_encoding.md R100 and the packings of 00_scope.md R9 and R10: how
messages, dibits, octets, samples and headers stand in words, in both directions. -/

namespace Sys2Proof.Machine

/-- `ceil(a / b)`, the word counts of R93 and R96. -/
def ceilDiv (a b : Nat) : Nat := (a + b - 1) / b

/-- Message bit `j` of a sequence of words: word `j / 32`, word bit `31 - j mod 32` (R9). -/
def bitAt (ws : List Word) (j : Nat) : Bool := (ws.getD (j / 32) 0).getMsbD (j % 32)

/-- The first `n` message bits of a sequence of words; padding is ignored (R9, R97). -/
def unpackBits (n : Nat) (ws : List Word) : Message := (List.range n).map (bitAt ws)

/-- The unsigned integer of a message, its first bit most significant (R9). -/
def messageNat (m : Message) : Nat := m.foldl (fun acc b => 2 * acc + b.toNat) 0

/-- Word `k` of a packed message: message bits `32k .. 32k + 31`, padding 0 (R9). -/
def wordOfBits (m : Message) (k : Nat) : Word :=
  BitVec.ofNat 32 (messageNat ((List.range 32).map fun i => m.getD (32 * k + i) false))

/-- A message packed MSB first into words, padding written 0 (R9). -/
def packBits (m : Message) : List Word := (List.range (ceilDiv m.length 32)).map (wordOfBits m)

/-- The bit expansion of a dibit, high bit first (R10). -/
def expandDibit (d : Dibit) : Message := [d.getLsbD 1, d.getLsbD 0]

/-- The bit expansion of a dibit sequence, high bit of each first (R10, 44_frame_correlator.md R210). -/
def expandDibits (ds : List Dibit) : Message := ds.flatMap expandDibit

/-- Dibit `j` of a packed sequence: word `j / 16`, word bits `[31 - 2(j mod 16) : 30 - 2(j mod 16)]` (R10). -/
def dibitAt (ws : List Word) (j : Nat) : Dibit :=
  (ws.getD (j / 16) 0).extractLsb' (30 - 2 * (j % 16)) 2

/-- The first `n` dibits of a payload (R100). -/
def unpackDibits (n : Nat) (ws : List Word) : List Dibit := (List.range n).map (dibitAt ws)

/-- A dibit sequence packed 16 a word; it equals the packing of the bit expansion (R10). -/
def packDibits (ds : List Dibit) : List Word := packBits (expandDibits ds)

/-- Octet `j` of a data block, octet 0 in bits [31:24] of the first word (46_packet_sequencer.md R262). -/
def octetAt (ws : List Word) (j : Nat) : Octet := (ws.getD (j / 4) 0).extractLsb' (24 - 8 * (j % 4)) 8

/-- The first `n` octets of a payload; padding is ignored (R262, R97). -/
def unpackOctets (n : Nat) (ws : List Word) : List Octet := (List.range n).map (octetAt ws)

/-- Word `k` of a packed block: octets `4k .. 4k + 3`, the data padding of the last word 0 (R265). -/
def wordOfOctets (os : List Octet) (k : Nat) : Word :=
  os.getD (4 * k) 0 ++ os.getD (4 * k + 1) 0 ++ os.getD (4 * k + 2) 0 ++ os.getD (4 * k + 3) 0

/-- A data block packed into `ceil(OCT / 4)` words (R265). -/
def packOctets (os : List Octet) : List Word := (List.range (ceilDiv os.length 4)).map (wordOfOctets os)

/-- The complex samples of a payload, I then Q (R100). A last odd word is no sample; EGAIN.PROC rejects it (R136). -/
def complexSamples : List Word → List (Word × Word)
  | i :: q :: rest => (i, q) :: complexSamples rest
  | _ => []

/-- The words of complex values, I then Q (R105 OUT_CPLX). -/
def complexWords (zs : List (Word × Word)) : List Word := zs.flatMap fun z => [z.1, z.2]

/-- The 96-bit header packed MSB first in three payload words (R100, 45_fec.md R244). -/
def headerOfWords (ws : List Word) : Header := ws.getD 0 0 ++ ws.getD 1 0 ++ ws.getD 2 0

/-- A header packed MSB first into its three words (R9). -/
def headerWords (m : Header) : List Word := [m.extractLsb' 64 32, m.extractLsb' 32 32, m.extractLsb' 0 32]

/-- `m<a..b>`: message bits `a .. b` of a header as an unsigned integer, bit `a` most significant (R9, 45_fec.md R248). -/
def headerField (m : Header) (a b : Nat) : Nat := (m >>> (95 - b)).toNat % 2 ^ (b + 1 - a)

/-- FMT, bits 3-7 (R248). -/
def headerFmt (m : Header) : Nat := headerField m 3 7
/-- SAP, bits 10-15 (R248). -/
def headerSap (m : Header) : Nat := headerField m 10 15
/-- VENDOR, bits 16-23 (R248). -/
def headerVendor (m : Header) : Nat := headerField m 16 23
/-- LLID, bits 24-47 (R248). -/
def headerLlid (m : Header) : Nat := headerField m 24 47
/-- BTF, blocks to follow, bits 49-55 (R248); read by PS.START. -/
def headerBtf (m : Header) : Nat := headerField m 49 55
/-- PADOP, bits 58-63 (R248). -/
def headerPadop (m : Header) : Nat := headerField m 58 63
/-- DHO, bits 74-79 (R248). -/
def headerDho (m : Header) : Nat := headerField m 74 79
/-- CRC, bits 80-95 (R248); read by CRC.HDR. -/
def headerCrc (m : Header) : BitVec 16 := m.extractLsb' 0 16

/-- The first 80 header bits, message bit 0 first (R240). -/
def headerBits80 (m : Header) : Message := (List.range 80).map m.getMsbD

end Sys2Proof.Machine
end

