-- ==== Sys2Proof/Syntax.lean ====
section
/-! DEFINITION. The commands of 30_encoding.md R93 as one inductive, the error codes of 60_exceptions.md R282, and the
pseudo-instructions of R103. -/

namespace Sys2Proof

/-- The 26 commands of R93. A constructor holds the fields of the command's ARG format (R94) and its payload words: every
command, whatever its UNIT and OP, is a header, a length word and a payload (R90), so every constructor has a payload.
The length word P is the payload's length. -/
inductive Instr where
  /-- CTRL.NOP (R120). -/
  | nop (pay : List Word)
  /-- CTRL.MARKER (R121). -/
  | marker (tag : BitVec 24) (pay : List Word)
  /-- CTRL.RESET_ALL (R122). -/
  | resetAll (pay : List Word)
  /-- PGAIN.PROC (R130); the payload is the samples. -/
  | pgainProc (pay : List Word)
  /-- PGAIN.RESET (R135). -/
  | pgainReset (pay : List Word)
  /-- EGAIN.PROC (R136); the payload is I, Q pairs. -/
  | egainProc (pay : List Word)
  /-- EGAIN.RESET (R137). -/
  | egainReset (pay : List Word)
  /-- FILT.LOAD (R160); `b` false is the FIR bank, true the half-band bank. -/
  | filtLoad (b : Bool) (pay : List Word)
  /-- FIR.APPLY (R163). -/
  | firApply (pay : List Word)
  /-- HB.DECIM (R164). -/
  | hbDecim (pay : List Word)
  /-- FILT.RESET (R165). -/
  | filtReset (pay : List Word)
  /-- FILT.SELECT (R166). -/
  | filtSelect (fi hi : BitVec 3) (lk : Bool) (pay : List Word)
  /-- DL.INSERT (R191). -/
  | dlInsert (sym : Dibit) (c e : Bool) (pay : List Word)
  /-- DL.UPDATE (R192). -/
  | dlUpdate (n : BitVec 12) (pay : List Word)
  /-- DL.ADJUST (R193); `d` false is +1, true is -1. -/
  | dlAdjust (d : Bool) (pay : List Word)
  /-- DL.EXTRACT (R194). -/
  | dlExtract (start len : BitVec 12) (pay : List Word)
  /-- DL.RESET (R195). -/
  | dlReset (pay : List Word)
  /-- SYNC.LOAD (R210). -/
  | syncLoad (k : BitVec 4) (ndib tol : BitVec 7) (v : Bool) (pay : List Word)
  /-- SYNC.RESET (R215). -/
  | syncReset (pay : List Word)
  /-- FEC.DEC12 (R234). -/
  | fecDec12 (prior : BitVec 16) (pay : List Word)
  /-- FEC.DEC34 (R235). -/
  | fecDec34 (prior : BitVec 16) (pay : List Word)
  /-- CRC.HDR (R244). -/
  | crcHdr (pay : List Word)
  /-- PS.START (R261). -/
  | psStart (herr : BitVec 8) (pay : List Word)
  /-- PS.ADD (R262). -/
  | psAdd (err oct : BitVec 8) (pay : List Word)
  /-- PS.QUERY (R263). -/
  | psQuery (pay : List Word)
  /-- PS.RESET (R264). -/
  | psReset (pay : List Word)
  deriving DecidableEq, Repr

/-- The payload words of a command (R90). -/
def Instr.pay : Instr → List Word
  | .nop p | .marker _ p | .resetAll p | .pgainProc p | .pgainReset p | .egainProc p | .egainReset p
  | .filtLoad _ p | .firApply p | .hbDecim p | .filtReset p | .filtSelect _ _ _ p | .dlInsert _ _ _ p
  | .dlUpdate _ p | .dlAdjust _ p | .dlExtract _ _ p | .dlReset p | .syncLoad _ _ _ _ p | .syncReset p
  | .fecDec12 _ p | .fecDec34 _ p | .crcHdr p | .psStart _ p | .psAdd _ _ p | .psQuery p | .psReset p => p

/-- The command-error codes of R282, and the host-access error 13. -/
inductive ErrCode where
  | illegalCmd | lengthLimit | reservedArg | lengthMismatch | operandRange | notConfigured | implLocked
  | implFallback | nonfinite | psNoHeader | psOverflow | psAbandoned | csrAccess
  deriving DecidableEq, Repr

/-- The pseudo-instructions of R103. `dlSnap` is given the pattern that the program loaded into the slot. -/
inductive Pseudo where
  /-- `FILT.CALIBRATE fi, hi`. -/
  | filtCalibrate (fi hi : BitVec 3)
  /-- `DL.PUSH s`. -/
  | dlPush (s : Dibit)
  /-- `DL.SYNCPUSH s`. -/
  | dlSyncPush (s : Dibit)
  /-- `DL.SLIP +1` (`back` false) and `DL.SLIP -1` (`back` true). -/
  | dlSlip (back : Bool)
  /-- `DL.SNAP k`, with the pattern of template `k`. -/
  | dlSnap (pattern : List Dibit)
  /-- `SYNC.CLEAR k`. -/
  | syncClear (k : BitVec 4)
  /-- `GAIN.RESET`. -/
  | gainReset
  /-- `FENCE tag`. -/
  | fence (tag : BitVec 24)
  deriving DecidableEq, Repr

end Sys2Proof
end

