-- ==== Sys2Proof/Decode.lean ====
section
/-! DEFINITION. Decoding a complete command (30_encoding.md R92 to R94, R97, R99) and, after it, the encoder of a
command's words. -/

namespace Sys2Proof

open Sys2Proof.Machine (ceilDiv packDibits)

/-- The opcode map of R93 by `{UNIT, OP}`, the ARG fields by R94: the reserved-zero mask of the command's ARG format and
the command that the header word and the payload words stand for; `none` for an unassigned pair. -/
def commandOf (h : Word) (pay : List Word) : Option (Word × Instr) :=
  match (h.extractLsb' 24 8).toNat with
  | 0x00 => some (0xFFFFFF, .nop pay)
  | 0x01 => some (0x000000, .marker (h.extractLsb' 0 24) pay)
  | 0x02 => some (0xFFFFFF, .resetAll pay)
  | 0x10 => some (0xFFFFFF, .pgainProc pay)
  | 0x11 => some (0xFFFFFF, .pgainReset pay)
  | 0x12 => some (0xFFFFFF, .egainProc pay)
  | 0x13 => some (0xFFFFFF, .egainReset pay)
  | 0x20 => some (0xFFFFFE, .filtLoad (h.getLsbD 0) pay)
  | 0x21 => some (0xFFFFFF, .firApply pay)
  | 0x22 => some (0xFFFFFF, .hbDecim pay)
  | 0x23 => some (0xFFFFFF, .filtReset pay)
  | 0x24 => some (0xFFFE88, .filtSelect (h.extractLsb' 0 3) (h.extractLsb' 4 3) (h.getLsbD 8) pay)
  | 0x30 => some (0xFFFCFC, .dlInsert (h.extractLsb' 0 2) (h.getLsbD 8) (h.getLsbD 9) pay)
  | 0x31 => some (0xFFF000, .dlUpdate (h.extractLsb' 0 12) pay)
  | 0x32 => some (0xFFFFFE, .dlAdjust (h.getLsbD 0) pay)
  | 0x33 => some (0x000000, .dlExtract (h.extractLsb' 0 12) (h.extractLsb' 12 12) pay)
  | 0x34 => some (0xFFFFFF, .dlReset pay)
  | 0x40 => some (0xF80000, .syncLoad (h.extractLsb' 0 4) (h.extractLsb' 4 7) (h.extractLsb' 11 7) (h.getLsbD 18) pay)
  | 0x41 => some (0xFFFFFF, .syncReset pay)
  | 0x50 => some (0xFF0000, .fecDec12 (h.extractLsb' 0 16) pay)
  | 0x51 => some (0xFF0000, .fecDec34 (h.extractLsb' 0 16) pay)
  | 0x52 => some (0xFFFFFF, .crcHdr pay)
  | 0x60 => some (0xFFFF00, .psStart (h.extractLsb' 0 8) pay)
  | 0x61 => some (0xFF0000, .psAdd (h.extractLsb' 0 8) (h.extractLsb' 8 8) pay)
  | 0x62 => some (0xFFFFFF, .psQuery pay)
  | 0x63 => some (0xFFFFFF, .psReset pay)
  | _ => none

/-- `decode(H, P, PAY)` of R92, checks 1 to 3 in the order it gives them: an unassigned pair, a length over
MAX_PAYLOAD_WORDS, a reserved-zero ARG bit set. Check 4 compares P with the length the command requires; it is
`Instr.lengthOk`, the first thing every meaning does (log 12). -/
def decode (c : Config) (h p : Word) (pay : List Word) : Except ErrCode Instr :=
  match commandOf h pay with
  | none => .error .illegalCmd
  | some (reserved, i) =>
    if c.maxPayloadWords < p.toNat then .error .lengthLimit
    else if h &&& reserved ≠ 0 then .error .reservedArg
    else .ok i

/-- Check 4 of R92: the payload has the length that R93 requires of the command; "any" accepts every length. -/
def Instr.lengthOk (c : Config) : Instr → Bool
  | .pgainProc _ | .filtLoad _ _ | .firApply _ | .hbDecim _ => true
  | .egainProc pay => pay.length % 2 = 0
  | .dlUpdate n pay => pay.length = ceilDiv n.toNat 16
  | .syncLoad _ ndib _ v pay => pay.length = if v then ceilDiv ndib.toNat 16 else 0
  | .fecDec12 _ pay | .fecDec34 _ pay => pay.length = ceilDiv c.trellisSteps 8
  | .crcHdr pay | .psStart _ pay => pay.length = 3
  | .psAdd _ oct pay => pay.length = ceilDiv oct.toNat 4
  | .nop pay | .marker _ pay | .resetAll pay | .pgainReset pay | .egainReset pay | .filtReset pay
  | .filtSelect _ _ _ pay | .dlInsert _ _ _ pay | .dlAdjust _ pay | .dlExtract _ _ pay | .dlReset pay
  | .syncReset pay | .psQuery pay | .psReset pay => pay.length = 0

/-- The first command of a word stream and the words after it: "A decoder finds the start of every command by adding
2 + P to the start of the previous one" (R99). `none` while the command is incomplete. -/
def frame : List Word → Option ((Word × Word × List Word) × List Word)
  | h :: p :: rest =>
    if p.toNat ≤ rest.length then some ((h, p, rest.take p.toNat), rest.drop p.toNat) else none
  | _ => none

/-! ## The encoder -/

/-- The header word of a command: UNIT, OP and the ARG format's fields, reserved bits 0 (R90, R93, R94). -/
def Instr.header : Instr → Word
  | .nop _ => 0x00#8 ++ 0#24
  | .marker tag _ => 0x01#8 ++ tag
  | .resetAll _ => 0x02#8 ++ 0#24
  | .pgainProc _ => 0x10#8 ++ 0#24
  | .pgainReset _ => 0x11#8 ++ 0#24
  | .egainProc _ => 0x12#8 ++ 0#24
  | .egainReset _ => 0x13#8 ++ 0#24
  | .filtLoad b _ => 0x20#8 ++ 0#23 ++ BitVec.ofBool b
  | .firApply _ => 0x21#8 ++ 0#24
  | .hbDecim _ => 0x22#8 ++ 0#24
  | .filtReset _ => 0x23#8 ++ 0#24
  | .filtSelect fi hi lk _ => 0x24#8 ++ 0#15 ++ BitVec.ofBool lk ++ 0#1 ++ hi ++ 0#1 ++ fi
  | .dlInsert sym c e _ => 0x30#8 ++ 0#14 ++ BitVec.ofBool e ++ BitVec.ofBool c ++ 0#6 ++ sym
  | .dlUpdate n _ => 0x31#8 ++ 0#12 ++ n
  | .dlAdjust d _ => 0x32#8 ++ 0#23 ++ BitVec.ofBool d
  | .dlExtract start len _ => 0x33#8 ++ len ++ start
  | .dlReset _ => 0x34#8 ++ 0#24
  | .syncLoad k ndib tol v _ => 0x40#8 ++ 0#5 ++ BitVec.ofBool v ++ tol ++ ndib ++ k
  | .syncReset _ => 0x41#8 ++ 0#24
  | .fecDec12 prior _ => 0x50#8 ++ 0#8 ++ prior
  | .fecDec34 prior _ => 0x51#8 ++ 0#8 ++ prior
  | .crcHdr _ => 0x52#8 ++ 0#24
  | .psStart herr _ => 0x60#8 ++ 0#16 ++ herr
  | .psAdd err oct _ => 0x61#8 ++ 0#8 ++ oct ++ err
  | .psQuery _ => 0x62#8 ++ 0#24
  | .psReset _ => 0x63#8 ++ 0#24

/-- The words of a command: header, length, payload (R90). -/
def encode (i : Instr) : List Word := i.header :: BitVec.ofNat 32 i.pay.length :: i.pay

/-- DL.UPDATE as the assembler builds it: N and the payload from the dibit string (R102). -/
def assembleDlUpdate (ds : List Dibit) : Instr := .dlUpdate (BitVec.ofNat 12 ds.length) (packDibits ds)

/-- SYNC.LOAD with V = 1 as the assembler builds it: NDIB and the payload from the dibit string (R102). -/
def assembleSyncLoad (k : BitVec 4) (tol : BitVec 7) (ds : List Dibit) : Instr :=
  .syncLoad k (BitVec.ofNat 7 ds.length) tol true (packDibits ds)

/-- The expansions of the pseudo-instructions (R103). -/
def Pseudo.expand : Pseudo → List Instr
  | .filtCalibrate fi hi => [.filtSelect fi hi true []]
  | .dlPush s => [.dlInsert s false false []]
  | .dlSyncPush s => [.dlInsert s true false []]
  | .dlSlip back => [.dlAdjust back []]
  | .dlSnap pattern => [assembleDlUpdate pattern]
  | .syncClear k => [.syncLoad k 0 0 false []]
  | .gainReset => [.pgainReset [], .egainReset []]
  | .fence tag => [.marker tag []]

/-! ## The host's table words -/

/-- The command words of a table word: the first word is the header, the second the length P, the next ones the payload;
every bit from `nbits` on is 0 (log 22). At most `limit` payload words are held (R91). -/
def tableCommand (limit nbits w : Nat) : Word × Word × List Word :=
  let v := w % 2 ^ nbits
  let p := BitVec.ofNat 32 (v >>> 32)
  (BitVec.ofNat 32 v, p, (List.range (min p.toNat limit)).map fun k => BitVec.ofNat 32 (v >>> (64 + 32 * k)))

/-- The instruction that `decode` reads from a table word, under REFCFG's MAX_PAYLOAD_WORDS (log 1, log 22). -/
def decodeTableWord (nbits w : Nat) : Option Instr :=
  let cmd := tableCommand Config.refcfg.maxPayloadWords nbits w
  (decode Config.refcfg cmd.1 cmd.2.1 cmd.2.2).toOption

end Sys2Proof
end

