-- ==== Sys2Proof/Machine/Binary32.lean ====
section
/-! DEFINITION. IEEE 754 binary32 arithmetic (00_scope.md R11): each operation is computed exactly on integers and rounded
once to nearest, ties to even. No fused multiply-add, no flush of subnormals, no exception flag.

Every finite binary32 magnitude is a whole number of units of 2^-149, and the 31-bit code of a magnitude is monotone in
its value. So a value is an integer (`value`), and rounding (`roundMag`) maps an exact rational number of units to the
code of the nearest magnitude. -/

namespace Sys2Proof.Machine.F32

/-- The sign bit (R11: bit 31). -/
def sign (a : Word) : Bool := a.msb

/-- The 31-bit magnitude code: exponent and fraction fields. -/
def mag (a : Word) : Nat := (a.extractLsb' 0 31).toNat

/-- The magnitude code of an infinity. -/
def infMag : Nat := 0x7F800000

/-- A NaN: exponent all ones and a nonzero fraction. -/
def isNaN (a : Word) : Bool := infMag < mag a

/-- An infinity of either sign. -/
def isInf (a : Word) : Bool := mag a = infMag

/-- `finite(a)` of R11: neither an infinity nor a NaN. -/
def finite (a : Word) : Bool := mag a < infMag

/-- The exact magnitude, in units of 2^-149, that a finite magnitude code stands for. -/
def units (k : Nat) : Nat :=
  if k < 2 ^ 23 then k else (2 ^ 23 + k % 2 ^ 23) <<< (k / 2 ^ 23 - 1)

/-- The exact value of a finite binary32, in units of 2^-149. -/
def value (a : Word) : Int :=
  if sign a then - (units (mag a) : Int) else (units (mag a) : Int)

/-- The binary32 word of a sign and a magnitude code. -/
def make (neg : Bool) (m : Nat) : Word := BitVec.ofBool neg ++ BitVec.ofNat 31 m

/-- The NaN that stands for every NaN inside a computation. Its bits are never an output: an output that is a NaN is
replaced by a free NaN (`settle` in Ops.lean, log 8). -/
def nan : Word := 0x7FC00000

/-- The magnitude code nearest to `num / den` units of 2^-149, ties to even, overflow to infinity (R11). Below 2^24 units
the spacing is one unit; from there on it is `2 ^ e` with `e` chosen so that the significand has 24 bits. -/
def roundMag (num den : Nat) : Nat :=
  let e := (num / den).log2 - 23
  let d := den <<< e
  let q := num / d
  let r := num % d
  let q' := if d < 2 * r || (2 * r = d && q % 2 = 1) then q + 1 else q
  min (e * 2 ^ 23 + q') infMag

/-- Integer order of the non-NaN values: the signed magnitude code, so that +0 and -0 agree and infinities bound all. -/
def key (a : Word) : Int := if sign a then - (mag a : Int) else (mag a : Int)

/-- `a < b`, the IEEE comparison, false when either side is a NaN (R11). -/
def lt (a b : Word) : Bool := !isNaN a && !isNaN b && key a < key b

/-- `a == b`, the IEEE comparison: false when either side is a NaN, and +0 == -0 (R11). -/
def eq (a b : Word) : Bool := !isNaN a && !isNaN b && key a = key b

/-- `a <= b` on non-NaN values. -/
def le (a b : Word) : Bool := lt a b || eq a b

/-- Negation flips the sign bit. -/
def neg (a : Word) : Word := a ^^^ 0x80000000#32

/-- `|a|` clears the sign bit (R11). -/
def abs (a : Word) : Word := a &&& 0x7FFFFFFF#32

/-- `a (+) b` (R11). An exact zero sum is +0 unless both operands are -0. -/
def add (a b : Word) : Word :=
  if isNaN a || isNaN b then nan
  else if isInf a then (if isInf b && sign a != sign b then nan else a)
  else if isInf b then b
  else if value a + value b = 0 then make (sign a && sign b) 0
  else make (value a + value b < 0) (roundMag (value a + value b).natAbs 1)

/-- `a (-) b` (R11). -/
def sub (a b : Word) : Word := add a (neg b)

/-- `a (*) b` (R11). The product of two counts of 2^-149 is a count of 2^-298. -/
def mul (a b : Word) : Word :=
  if isNaN a || isNaN b then nan
  else if isInf a || isInf b then
    (if mag a = 0 || mag b = 0 then nan else make (sign a != sign b) infMag)
  else make (sign a != sign b) (roundMag (units (mag a) * units (mag b)) (2 ^ 149))

/-- `a (/) b` (R11). -/
def div (a b : Word) : Word :=
  if isNaN a || isNaN b then nan
  else if isInf a then (if isInf b then nan else make (sign a != sign b) infMag)
  else if isInf b then make (sign a != sign b) 0
  else if mag b = 0 then (if mag a = 0 then nan else make (sign a != sign b) infMag)
  else make (sign a != sign b) (roundMag (units (mag a) * 2 ^ 149) (units (mag b)))

/-- The integer square root of `n`, built bit by bit from bit `k - 1` down onto `acc`. -/
def isqrtFrom (n : Nat) : Nat → Nat → Nat
  | 0, acc => acc
  | k + 1, acc => isqrtFrom n k (if (acc + 2 ^ k) * (acc + 2 ^ k) ≤ n then acc + 2 ^ k else acc)

/-- `sqrt32(a)` (R11). With `a` standing for `n` units, the root is `sqrt (n * 2^149)` units. It is irrational or whole;
one sticky half decides the rounding, since the spacing there is far above one unit. -/
def sqrt (a : Word) : Word :=
  if isNaN a then nan
  else if mag a = 0 then a
  else if sign a then nan
  else if isInf a then a
  else
    let n := units (mag a) * 2 ^ 149
    let t := isqrtFrom n 214 0
    make false (roundMag (if t * t = n then 2 * t else 2 * t + 1) 2)

/-- `f32(n)`: the integer `n` converted with the same rounding (R11). -/
def ofNat (n : Nat) : Word := make false (roundMag (n * 2 ^ 149) 1)

/-- `max2(a, b) = (b > a) ? b : a` (R11). -/
def max2 (a b : Word) : Word := if lt a b then b else a

/-- `min2(a, b) = (b < a) ? b : a` (R11). -/
def min2 (a b : Word) : Word := if lt b a then b else a

/-- `clamp(v, lo, hi) = (v < lo) ? lo : ((v > hi) ? hi : v)` (R11). -/
def clamp (v lo hi : Word) : Word := if lt v lo then lo else if lt hi v then hi else v

/-- `finite(a) and a > 0`, the legality test of most gain parameters (41_gain.md R134, R135, R138). -/
def finitePos (a : Word) : Bool := finite a && lt 0 a

/-- `|v - s| <= 1e-5`, the difference taken in exact real arithmetic (42_filter.md R167). -/
def within (v s : Word) : Bool := (value v - value s).natAbs * 100000 ≤ 2 ^ 149

end Sys2Proof.Machine.F32
end

