-- ==== Sys2Proof/Machine/State.lean ====
section
/-! DEFINITION. The whole state of the block (10_state.md R23 to R31, 20_memory.md R71), its reasons to stop, and the state
after power-on reset (70_reset_and_hazards.md R310). Plain data throughout. -/

namespace Sys2Proof.Machine

/-- Peak-gain state (R24) and its poison flag (R29). -/
structure PeakGain where
  /-- PG_GAIN, binary32. -/
  gain : Word
  /-- PG_PEAK, binary32. -/
  peak : Word
  /-- PG_OBJ, binary32. -/
  obj : Word
  /-- PG_POISON. -/
  poison : Bool
  deriving DecidableEq, Repr

/-- Envelope state (R25) and its poison flag (R29). -/
structure Envelope where
  /-- EG_WIN[0 .. MAX_ENV_WINDOW-1], binary32 magnitudes; the first `w` are the window. -/
  win : List Word
  /-- EG_WPTR, the slot the next magnitude overwrites. -/
  wptr : Nat
  /-- EG_MAX, binary32. -/
  max : Word
  /-- EG_GAIN, binary32. -/
  gain : Word
  /-- EG_W, the active window length. -/
  w : Nat
  /-- EG_POISON. -/
  poison : Bool
  deriving DecidableEq, Repr

/-- One coefficient bank (R26) and its poison flag (R29). -/
structure Bank where
  /-- COEF[0 .. MAX_TAPS-1], binary32. -/
  coef : List Word
  /-- T, the tap count, meaningful only when `valid`. -/
  taps : Nat
  /-- VALID. -/
  valid : Bool
  /-- HIST[1 .. MAX_TAPS-1]: entry `j - 1` is the input `j` samples before the next one. -/
  hist : List Word
  /-- FIR_POISON or HB_POISON. -/
  poison : Bool
  deriving DecidableEq, Repr

/-- The filter bank unit (R26). -/
structure Filters where
  /-- Bank 0, the FIR bank. -/
  fir : Bank
  /-- Bank 1, the half-band bank. -/
  hb : Bank
  /-- HB_PHASE. -/
  phase : Bool
  /-- FILT_FI, the FIR bank's implementation id. -/
  fi : BitVec 3
  /-- FILT_HI, the half-band bank's implementation id. -/
  hi : BitVec 3
  /-- FILT_LK, the lock. -/
  lk : Bool
  deriving DecidableEq, Repr

/-- The symbol delay line (R27). -/
structure DelayLine where
  /-- DL_BUF[0 .. L-1]. -/
  buf : List Dibit
  /-- DL_PTR, the slot the next insert writes, which holds the oldest symbol. -/
  ptr : Nat
  deriving DecidableEq, Repr

/-- One frame-sync template slot TPL[k] (R28). -/
structure Template where
  /-- V, slot loaded. -/
  v : Bool
  /-- NDIB, the length in dibits. -/
  ndib : Nat
  /-- TOL, the largest Hamming distance that matches. -/
  tol : Nat
  /-- PAT, the 2*NDIB-bit message. -/
  pat : Message
  deriving DecidableEq, Repr

/-- SYNC_LAST: the last match (R28, R31 offset 0x0B8). -/
structure SyncLast where
  /-- Valid bit. -/
  valid : Bool
  /-- Hamming distance of the match. -/
  dist : BitVec 8
  /-- Template index. -/
  k : BitVec 4
  deriving DecidableEq, Repr

/-- The frame correlator (R28). -/
structure Correlator where
  /-- TPL[0 .. MAX_TEMPLATES-1]. -/
  tpl : List Template
  /-- SYNC_MISS, saturating. -/
  miss : Word
  /-- IN_SYNC. -/
  inSync : Bool
  /-- SYNC_LAST. -/
  last : SyncLast
  deriving DecidableEq, Repr

/-- PS_STATE (R30). -/
inductive PsState where
  | idle | headerReceived | accumulating | complete
  deriving DecidableEq, Repr

/-- One stored data block (R30). -/
structure Block where
  /-- ERR. -/
  err : BitVec 8
  /-- OCT. -/
  oct : BitVec 8
  /-- DATA, `8*OCT` bits as octets. -/
  data : List Octet
  deriving DecidableEq, Repr

/-- The packet sequencer (R30). -/
structure Sequencer where
  /-- PS_STATE. -/
  state : PsState
  /-- PS_HDR. -/
  hdr : Header
  /-- PS_HERR. -/
  herr : BitVec 8
  /-- PS_DECL. -/
  decl : Nat
  /-- PS_RECV. -/
  recv : Nat
  /-- PS_BLK. -/
  blk : List Block
  deriving DecidableEq, Repr

/-- The configuration registers that the host writes and the units read (R31, R41, R42, R46). -/
structure ConfigRegs where
  /-- PG_TARGET, 0x040. -/
  pgTarget : Word
  /-- PG_MIN, 0x044. -/
  pgMin : Word
  /-- PG_MAX, 0x048. -/
  pgMax : Word
  /-- PG_CEIL, 0x04C. -/
  pgCeil : Word
  /-- PG_STEP, 0x050. -/
  pgStep : Word
  /-- PG_DECAY, 0x054. -/
  pgDecay : Word
  /-- PG_INIT, 0x058. -/
  pgInit : Word
  /-- EG_OBJ, 0x060. -/
  egObj : Word
  /-- EG_FLOOR, 0x064. -/
  egFloor : Word
  /-- EG_WINDOW, 0x068. -/
  egWindow : BitVec 16
  /-- SYNC_LOSS_THR, 0x0B4. -/
  syncLossThr : Word
  deriving DecidableEq, Repr

/-- The error registers (R35, R36). -/
structure ErrorRegs where
  /-- ERR_STICKY, 0x010. -/
  sticky : Word
  /-- LAST_ERR, 0x014. -/
  last : BitVec 8
  /-- LAST_ERR_CMD, 0x018. -/
  lastCmd : Word
  deriving DecidableEq, Repr

/-- The counters, 32 bits each, modulo 2^32 (R37). -/
structure Counters where
  /-- CNT_CMD. -/
  cmd : Word
  /-- CNT_ERR. -/
  err : Word
  /-- CNT_SYNC_MATCH. -/
  syncMatch : Word
  /-- CNT_SYNC_LOST. -/
  syncLost : Word
  /-- CNT_FEC_BLOCKS. -/
  fecBlocks : Word
  /-- CNT_CORRECTED. -/
  corrected : Word
  /-- CNT_CRC_OK. -/
  crcOk : Word
  /-- CNT_CRC_FAIL. -/
  crcFail : Word
  /-- CNT_PACKETS. -/
  packets : Word
  /-- CNT_PS_ANOMALY. -/
  psAnomaly : Word
  deriving DecidableEq, Repr

/-- CA, the command assembly buffer (R20, R23; 30_encoding.md R91). -/
inductive Assembly where
  /-- Nothing received. -/
  | empty
  /-- The header word received. -/
  | header (h : Word)
  /-- Header and length received; `pay` holds the payload words kept, `due` counts the words still due. -/
  | body (h p : Word) (pay : List Word) (due : Nat)
  deriving DecidableEq, Repr

/-- One host CSR access (20_memory.md R72, R74): its width in bytes and its byte offset in the CSR space. -/
inductive HostAccess where
  | read (bytes : Nat) (off : BitVec 12)
  | write (bytes : Nat) (off : BitVec 12) (data : Word)
  deriving DecidableEq, Repr

/-- Who moves next: the engine, the host with one access, or the power-on reset input (R72, R310; log 3, log 14). -/
inductive Turn where
  | engine
  | host (a : HostAccess)
  | powerOn
  deriving DecidableEq, Repr

/-- The block's whole state. -/
structure State where
  /-- The configuration; no step changes it (the model's own field, log 1). -/
  cfg : Config
  /-- Configuration registers. -/
  csr : ConfigRegs
  /-- IRQ_EN: bit 0 EVT_IE, bit 1 ERR_IE (R34). -/
  irqEn : BitVec 2
  /-- Error registers. -/
  errs : ErrorRegs
  /-- Counters. -/
  cnt : Counters
  /-- Peak-gain unit. -/
  pg : PeakGain
  /-- Envelope unit. -/
  eg : Envelope
  /-- Filter bank unit. -/
  filt : Filters
  /-- Symbol delay line. -/
  dl : DelayLine
  /-- Frame correlator. -/
  sync : Correlator
  /-- Packet sequencer. -/
  ps : Sequencer
  /-- CMDQ, oldest word first. -/
  cmdq : List Word
  /-- EVQ, oldest word first. -/
  evq : List Word
  /-- CA. -/
  ca : Assembly
  /-- How many free values have been drawn (the model's own field, log 6). -/
  draws : Nat
  /-- The turns still to be taken, first to move first (the model's own field, log 3). -/
  agenda : List Turn
  /-- The words that host reads have returned, oldest first (the model's own field, log 5). -/
  hostReads : List Word
  deriving DecidableEq, Repr

/-- Reasons to fault: none. The block has no trap (60_exceptions.md R287) and "never halts on an error" (R288); its only
states without progress are HOLD and an empty command queue, where the state stays as it is (log 24). -/
inductive Fault
  deriving DecidableEq, Repr

/-- Reasons to refuse. -/
inductive Refusal where
  /-- Raised only by an arm of `exec` that has no meaning yet; no arm is left without one. Safe. -/
  | notModelled (mnemonic : String)
  deriving DecidableEq, Repr

/-- A coefficient bank at power-on (R310). COEF is unspecified there and no rule reads it before a load; the model
fixes it to +0.0 (log 11, DESIGN CHOICE). -/
def Bank.reset (c : Config) : Bank where
  coef := List.replicate c.maxTaps 0
  taps := 0
  valid := false
  hist := List.replicate (c.maxTaps - 1) 0
  poison := false

/-- A template slot at power-on (R310): V = 0; NDIB, TOL and PAT are unspecified and unread (log 11, DESIGN CHOICE). -/
def Template.reset : Template where
  v := false
  ndib := 0
  tol := 0
  pat := []

/-- The packet sequencer after power-on, PS.RESET or RESET_ALL (R30). -/
def Sequencer.reset : Sequencer where
  state := .idle
  hdr := 0
  herr := 0
  decl := 0
  recv := 0
  blk := []

/-- The state after power-on reset under configuration `c` (R310). -/
def State.resetOf (c : Config) : State where
  cfg := c
  csr := {
    pgTarget := c.pgTargetRst, pgMin := c.pgMinRst, pgMax := c.pgMaxRst, pgCeil := c.pgCeilRst
    pgStep := c.pgStepRst, pgDecay := c.pgDecayRst, pgInit := c.pgInitRst
    egObj := c.egObjRst, egFloor := c.egFloorRst, egWindow := c.egWindowRst
    syncLossThr := c.syncLossThrRst }
  irqEn := 0
  errs := { sticky := 0, last := 0, lastCmd := 0 }
  cnt := {
    cmd := 0, err := 0, syncMatch := 0, syncLost := 0, fecBlocks := 0, corrected := 0
    crcOk := 0, crcFail := 0, packets := 0, psAnomaly := 0 }
  pg := { gain := c.pgInitRst, peak := 0, obj := c.pgInitRst, poison := false }
  eg := {
    win := List.replicate c.maxEnvWindow 0, wptr := 0, max := 0
    gain := F32.div c.egObjRst c.egFloorRst, w := c.egWindowRst.toNat, poison := false }
  filt := { fir := Bank.reset c, hb := Bank.reset c, phase := false, fi := 0, hi := 0, lk := false }
  dl := { buf := List.replicate c.dlCapacity 0, ptr := 0 }
  sync := {
    tpl := List.replicate c.maxTemplates Template.reset, miss := 0, inSync := false
    last := { valid := false, dist := 0, k := 0 } }
  ps := Sequencer.reset
  cmdq := []
  evq := []
  ca := .empty
  draws := 0
  agenda := []
  hostReads := []

/-- The machine right after reset, under the reference configuration (R310; log 1, DESIGN CHOICE: the spec leaves the
parameters OPEN). -/
def State.reset : State := State.resetOf Config.refcfg

end Sys2Proof.Machine
end

