-- ==== Sys2Proof/Machine/Ops.lean ====
section
/-! DEFINITION. The shared operations: appending events, error bookkeeping (the block's counterpart of taking an
exception), draws, the frame of every meaning, the assembly of commands, the logical view of the delay line. -/

namespace Sys2Proof

/-- The error code of R282. -/
def ErrCode.num : ErrCode → Nat
  | .illegalCmd => 1 | .lengthLimit => 2 | .reservedArg => 3 | .lengthMismatch => 4 | .operandRange => 5
  | .notConfigured => 6 | .implLocked => 7 | .implFallback => 8 | .nonfinite => 9 | .psNoHeader => 10
  | .psOverflow => 11 | .psAbandoned => 12 | .csrAccess => 13

/-- The codes that count as sequencer anomalies (60_exceptions.md R285). -/
def ErrCode.isAnomaly : ErrCode → Bool
  | .psNoHeader | .psOverflow | .psAbandoned => true
  | _ => false

end Sys2Proof

namespace Sys2Proof.Machine

/-- What a meaning answers. -/
abbrev Out := Host.Outcome State Fault Refusal

/-! ## Field updates -/

/-- Replace the peak-gain unit. -/
def State.setPg (s : State) (v : PeakGain) : State := { s with pg := v }
/-- Replace the envelope unit. -/
def State.setEg (s : State) (v : Envelope) : State := { s with eg := v }
/-- Replace the filter unit. -/
def State.setFilt (s : State) (v : Filters) : State := { s with filt := v }
/-- Replace the delay line. -/
def State.setDl (s : State) (v : DelayLine) : State := { s with dl := v }
/-- Replace the correlator. -/
def State.setSync (s : State) (v : Correlator) : State := { s with sync := v }
/-- Replace the packet sequencer. -/
def State.setPs (s : State) (v : Sequencer) : State := { s with ps := v }
/-- Replace the error registers. -/
def State.setErrs (s : State) (v : ErrorRegs) : State := { s with errs := v }
/-- Replace the counters. -/
def State.setCnt (s : State) (v : Counters) : State := { s with cnt := v }
/-- Append words to the event queue. -/
def State.pushEvq (s : State) (ws : List Word) : State := { s with evq := s.evq ++ ws }
/-- Count `n` draws as made (log 6). -/
def State.drawn (s : State) (n : Nat) : State := { s with draws := s.draws + n }

/-! ## Events -/

/-- The event types of 30_encoding.md R105. -/
inductive EventType where
  | outReal | outCplx | dlEjected | dlData | syncMatch | syncLost | fecResult | crcResult | packet | psInfo | marker
  | error
  deriving DecidableEq, Repr

/-- The TYPE byte of R105. -/
def EventType.code : EventType → BitVec 8
  | .outReal => 0x01 | .outCplx => 0x02 | .dlEjected => 0x03 | .dlData => 0x04 | .syncMatch => 0x05
  | .syncLost => 0x06 | .fecResult => 0x07 | .crcResult => 0x08 | .packet => 0x09 | .psInfo => 0x0A
  | .marker => 0x0B | .error => 0x0F

/-- The words of one event: TYPE, SRC (the header's `{UNIT, OP}`) and INFO, the payload count, the payload (R104). -/
def eventWords (ty : EventType) (h : Word) (info : BitVec 16) (payload : List Word) : List Word :=
  (ty.code ++ h.extractLsb' 24 8 ++ info) :: BitVec.ofNat 32 payload.length :: payload

/-- `Emit(type, info, payload)` for the command with header `h` (R12, R104). -/
def State.emit (s : State) (ty : EventType) (h : Word) (info : BitVec 16) (payload : List Word) : State :=
  s.pushEvq (eventWords ty h info payload)

/-! ## Errors -/

/-- The error registers after a command error of code `c` by the command with header `h` (R285). -/
def ErrorRegs.record (e : ErrorRegs) (c : ErrCode) (h : Word) : ErrorRegs where
  sticky := e.sticky ||| (1#32 <<< c.num)
  last := BitVec.ofNat 8 c.num
  lastCmd := h

/-- The counters after a command error of code `c` (R285). -/
def Counters.countError (n : Counters) (c : ErrCode) : Counters :=
  { n with err := n.err + 1, psAnomaly := if c.isAnomaly then n.psAnomaly + 1 else n.psAnomaly }

/-- Error bookkeeping of a command error of code `c` by the command with header `h` (R285): the ERROR event and the
error registers and counters. It is the block's whole counterpart of taking an exception: "No error diverts control,
saves state, changes a mode or masks anything" (R287). A reject is this and nothing else; a report is this before the
command runs on (R281). There is no return from it (R289). -/
def State.takeError (s : State) (c : ErrCode) (h : Word) : State :=
  ((s.emit .error h (BitVec.ofNat 16 c.num) [h]).setErrs (s.errs.record c h)).setCnt (s.cnt.countError c)

/-- A host-access error, code 13: only ERR_STICKY[13] is set (R286). -/
def State.takeAccessError (s : State) : State :=
  s.setErrs { s.errs with sticky := s.errs.sticky ||| (1#32 <<< ErrCode.csrAccess.num) }

/-- Check 4 of 30_encoding.md R92 and then the family's rule `body` (log 12). Every meaning has this frame. -/
def runCommand (i : Instr) (s : State) (body : State → State) : Out :=
  .next (if i.lengthOk s.cfg then body s else s.takeError .lengthMismatch i.header)

/-! ## Draws -/

/-- The `n` free values from number `d` on: `Draw(all binary32 values)`, `n` times (R12, log 6). -/
def drawList (d n : Nat) : List Word := (List.range n).map fun k => Config.freeWord (d + k)

/-- `Draw` from the words that satisfy `p`: the free word `r` where it does, else `dflt`, which must (log 7). Over all
free values the result takes exactly the values of the set. -/
def drawIn (p : Word → Bool) (dflt r : Word) : Word := if p r then r else dflt

/-- An output that an operation computed as `v`: `v` itself, or any NaN at all where `v` is a NaN (log 8). -/
def settle (v r : Word) : Word := if F32.isNaN v then drawIn F32.isNaN F32.nan r else v

/-- A list of computed outputs with the free values from number `d` on, one a value. -/
def settleList (d : Nat) (vs : List Word) : List Word :=
  (vs.zipIdx d).map fun v => settle v.1 (Config.freeWord v.2)

/-! ## The delay line's logical view -/

/-- `logical(j)`: symbol `j` of the line, oldest first (43_delay_line.md R190). -/
def State.logical (s : State) (j : Nat) : Dibit := s.dl.buf.getD ((s.dl.ptr + j) % s.cfg.dlCapacity) 0

/-! ## Command assembly -/

/-- CA holds a complete command: header, length and all P payload words received (10_state.md R20). -/
def Assembly.isComplete : Assembly → Bool
  | .body _ _ _ due => due = 0
  | _ => false

/-- CA holds an incomplete command (R33 CMD_PARTIAL). -/
def Assembly.isPartial : Assembly → Bool
  | .empty => false
  | .header _ => true
  | .body _ _ _ due => due ≠ 0

/-- CA after it takes word `w`; a payload word past the first `limit` is counted and discarded (30_encoding.md R91). -/
def Assembly.take (limit : Nat) (w : Word) : Assembly → Assembly
  | .empty => .header w
  | .header h => .body h w [] w.toNat
  | .body h p pay due => .body h p (if pay.length < limit then pay ++ [w] else pay) (due - 1)

/-- The receive step: the oldest word of CMDQ moves into CA; with CMDQ empty the engine is idle (R20). -/
def State.receive (s : State) : State :=
  match s.cmdq with
  | [] => s
  | w :: rest => { s with cmdq := rest, ca := s.ca.take s.cfg.maxPayloadWords w }

end Sys2Proof.Machine
end

