-- ==== Sys2Proof/Machine/Correlator.lean ====
section
/-! DEFINITION. The frame correlator (44_frame_correlator.md). -/

namespace Sys2Proof.Machine

/-- The template length check (R211). -/
def templateLegal (c : Config) (ndib : Nat) : Bool :=
  decide (1 ≤ ndib) && decide (ndib ≤ Config.maxTemplateDibits) && decide (ndib ≤ c.dlCapacity)

/-- SYNC.LOAD (R210). -/
def execSyncLoad (k : BitVec 4) (ndib tol : BitVec 7) (v : Bool) (pay : List Word) (s : State) : Out :=
  runCommand (.syncLoad k ndib tol v pay) s fun s =>
    let h := (Instr.syncLoad k ndib tol v pay).header
    let old := s.sync.tpl.getD k.toNat Template.reset
    if s.cfg.maxTemplates ≤ k.toNat then s.takeError .operandRange h
    else if !v then s.setSync { s.sync with tpl := s.sync.tpl.set k.toNat { old with v := false } }
    else if !templateLegal s.cfg ndib.toNat then s.takeError .operandRange h
    else
      s.setSync { s.sync with
        tpl := s.sync.tpl.set k.toNat
          { v := true, ndib := ndib.toNat, tol := tol.toNat
            pat := expandDibits (unpackDibits ndib.toNat pay) } }

/-- The Hamming distance of two messages: the count of differing bits (R212). -/
def hamming (a b : Message) : Nat := (List.zipWith (fun x y => x != y) a b).count true

/-- The window of the `n` most recent symbols, oldest first, as bits (R212). -/
def State.window (s : State) (n : Nat) : Message :=
  expandDibits ((List.range n).map fun i => s.logical (s.cfg.dlCapacity - n + i))

/-- `d_k`: the distance between a template's pattern and its window (R212). -/
def State.distance (s : State) (t : Template) : Nat := hamming (s.window t.ndib) t.pat

/-- The matched templates with their distances, in slot order: `(k, d_k)` for each valid slot within its tolerance
(R212). -/
def State.matched (s : State) : List (Nat × Nat) :=
  (s.sync.tpl.zipIdx.filter fun t => t.1.v && decide (s.distance t.1 ≤ t.1.tol)).map fun t => (t.2, s.distance t.1)

/-- The match with the smallest distance, and among equal distances the smallest slot (R213). -/
def bestMatch : List (Nat × Nat) → Option (Nat × Nat)
  | [] => none
  | m :: rest =>
    match bestMatch rest with
    | none => some m
    | some b => if b.2 < m.2 then some b else some m

/-- The match step (R213). -/
def State.matchStep (s : State) (h : Word) (k d : Nat) : State :=
  let kb := BitVec.ofNat 4 k
  let db := BitVec.ofNat 8 d
  ((s.emit .syncMatch h (0#4 ++ db ++ kb) [s.sync.miss]).setSync
    { s.sync with miss := 0, inSync := true, last := { valid := true, dist := db, k := kb } }).setCnt
    { s.cnt with syncMatch := s.cnt.syncMatch + 1 }

/-- `sat32(SYNC_MISS + 1)` (00_scope.md R13, R214). -/
def satSucc (n : Word) : Word := if n = BitVec.allOnes 32 then n else n + 1

/-- The miss reaches the threshold: it raises SYNC_MISS to a nonzero SYNC_LOSS_THR (R214). A miss that leaves the count at
2^32-1 does not: SYNC_LOST fires "never again in that run. This holds even at SYNC_MISS = 2^32-1, because the saturated count
never changes, so the equality is met only once". R214's pseudocode alone would fire there again (log 25, DEDUCED). -/
abbrev State.reachesLoss (s : State) : Prop :=
  s.csr.syncLossThr ≠ 0 ∧ satSucc s.sync.miss = s.csr.syncLossThr ∧ satSucc s.sync.miss ≠ s.sync.miss

/-- The miss step (R214). -/
def State.missStep (s : State) (h : Word) : State :=
  let miss := satSucc s.sync.miss
  if s.reachesLoss then
    ((s.emit .syncLost h 0 [miss]).setSync { s.sync with miss := miss, inSync := false }).setCnt
      { s.cnt with syncLost := s.cnt.syncLost + 1 }
  else s.setSync { s.sync with miss := miss }

/-- `correlate()`, run by DL.INSERT with C = 1 (R212). -/
def State.correlate (s : State) (h : Word) : State :=
  match bestMatch s.matched with
  | some m => s.matchStep h m.1 m.2
  | none => s.missStep h

/-- SYNC.RESET's effect (R215). -/
def State.resetCorrelator (s : State) : State :=
  s.setSync { s.sync with miss := 0, inSync := false, last := { valid := false, dist := 0, k := 0 } }

/-- SYNC.RESET (R215). -/
def execSyncReset (pay : List Word) (s : State) : Out :=
  runCommand (.syncReset pay) s fun s => s.resetCorrelator

end Sys2Proof.Machine
end

