-- ==== Sys2Proof/Machine/DelayLine.lean ====
section
/-! DEFINITION. The symbol delay line (43_delay_line.md). -/

namespace Sys2Proof.Machine

/-- The line after one insert: the oldest symbol's slot takes the new symbol and the pointer advances (R191). -/
def DelayLine.insert (c : Config) (l : DelayLine) (sym : Dibit) : DelayLine where
  buf := l.buf.set l.ptr sym
  ptr := (l.ptr + 1) % c.dlCapacity

/-- DL.INSERT (R191). The ejected symbol is the one at DL_PTR before the insert; the correlation looks at the line after
it. -/
def execDlInsert (sym : Dibit) (c e : Bool) (pay : List Word) (s : State) : Out :=
  runCommand (.dlInsert sym c e pay) s fun s =>
    let h := (Instr.dlInsert sym c e pay).header
    let ej := s.dl.buf.getD s.dl.ptr 0
    let s := s.setDl (s.dl.insert s.cfg sym)
    let s := if e then s.emit .dlEjected h (ej.setWidth 16) [] else s
    if c then s.correlate h else s

/-- The buffer after `syms` overwrite consecutive slots from `base` on, modulo `n` (R192). -/
def overwrite (n base : Nat) : List Dibit → List Dibit → List Dibit
  | buf, [] => buf
  | buf, d :: ds => overwrite n (base + 1) (buf.set (base % n) d) ds

/-- DL.UPDATE: `logical(L-N+i) <- s_i`; the pointer does not move (R192). -/
def execDlUpdate (n : BitVec 12) (pay : List Word) (s : State) : Out :=
  runCommand (.dlUpdate n pay) s fun s =>
    let l := s.cfg.dlCapacity
    if l < n.toNat then s.takeError .operandRange (Instr.dlUpdate n pay).header
    else
      s.setDl { s.dl with
        buf := overwrite l (s.dl.ptr + l - n.toNat) s.dl.buf (unpackDibits n.toNat pay) }

/-- DL.ADJUST: +1 when D = 0, -1 when D = 1, modulo L (R193). -/
def execDlAdjust (d : Bool) (pay : List Word) (s : State) : Out :=
  runCommand (.dlAdjust d pay) s fun s =>
    let l := s.cfg.dlCapacity
    s.setDl { s.dl with ptr := if d then (s.dl.ptr + l - 1) % l else (s.dl.ptr + 1) % l }

/-- DL.EXTRACT (R194). -/
def execDlExtract (start len : BitVec 12) (pay : List Word) (s : State) : Out :=
  runCommand (.dlExtract start len pay) s fun s =>
    let h := (Instr.dlExtract start len pay).header
    if s.cfg.dlCapacity < start.toNat + len.toNat then s.takeError .operandRange h
    else
      s.emit .dlData h (len.setWidth 16)
        (packDibits ((List.range len.toNat).map fun i => s.logical (start.toNat + i)))

/-- DL.RESET's effect (R195). -/
def State.resetDelayLine (s : State) : State :=
  s.setDl { buf := List.replicate s.cfg.dlCapacity 0, ptr := 0 }

/-- DL.RESET (R195). -/
def execDlReset (pay : List Word) (s : State) : Out :=
  runCommand (.dlReset pay) s fun s => s.resetDelayLine

end Sys2Proof.Machine
end

