-- ==== Sys2Proof/Machine/Filter.lean ====
section
/-! DEFINITION. The FIR filter bank (42_filter.md). -/

namespace Sys2Proof.Machine

/-- Bank 0 (`b` false) or bank 1 (`b` true) (10_state.md R26). -/
def Filters.bank (f : Filters) (b : Bool) : Bank := if b then f.hb else f.fir

/-- Replace bank 0 or bank 1. -/
def Filters.setBank (f : Filters) (b : Bool) (v : Bank) : Filters := if b then { f with hb := v } else { f with fir := v }

/-- The half-band symmetry test `h_k == h_(T-1-k)` for every k, by IEEE equality (R160). -/
def symmetric (hs : List Word) : Bool := (hs.zip hs.reverse).all fun p => F32.eq p.1 p.2

/-- The range check of FILT.LOAD (R160). -/
def loadLegal (c : Config) (b : Bool) (hs : List Word) : Bool :=
  decide (1 ≤ hs.length) && decide (hs.length ≤ c.maxTaps) && hs.all F32.finite && (!b || symmetric hs)

/-- A bank with coefficients `hs` loaded; slots past them keep their values (R160). -/
def Bank.load (k : Bank) (hs : List Word) : Bank :=
  { k with coef := hs ++ k.coef.drop hs.length, taps := hs.length, valid := true }

/-- FILT.LOAD (R160). -/
def execFiltLoad (b : Bool) (pay : List Word) (s : State) : Out :=
  runCommand (.filtLoad b pay) s fun s =>
    if loadLegal s.cfg b pay then s.setFilt (s.filt.setBank b ((s.filt.bank b).load pay))
    else s.takeError .operandRange (Instr.filtLoad b pay).header

/-- The output of `step_B(x)`: the sum over increasing k of `h_k (*) w_k` from +0.0, with `w_0 = x` and `w_k` the input k
samples back (R161). -/
def Bank.output (k : Bank) (x : Word) : Word :=
  ((k.coef.take k.taps).zip (x :: k.hist)).foldl (fun acc p => F32.add acc (F32.mul p.1 p.2)) 0

/-- The history after `step_B(x)`: `x` enters and the oldest input leaves (R161). -/
def Bank.shift (k : Bank) (x : Word) : Bank := { k with hist := (x :: k.hist).take k.hist.length }

/-- The FIR loop: the bank after the inputs and the scalar results in order (R163). -/
def firLoop : Bank → List Word → Bank × List Word
  | k, [] => (k, [])
  | k, x :: xs => let rest := firLoop (k.shift x) xs; (rest.1, k.output x :: rest.2)

/-- The half-band loop: bank, phase and the kept scalar results in order; every input enters the history and every
second filtered sample is kept (R164). -/
def hbLoop : Bank → Bool → List Word → Bank × Bool × List Word
  | k, phase, [] => (k, phase, [])
  | k, phase, x :: xs =>
    let rest := hbLoop (k.shift x) (!phase) xs
    (rest.1, rest.2.1, if phase then k.output x :: rest.2.2 else rest.2.2)

/-- `impl(id, s)` with free word `r` (R167): the scalar result itself for id 0; for another id any finite value within 1e-5
of it, or any value at all when it is not finite. The bits of a scalar NaN are free (log 8). -/
def implOutput (id : BitVec 3) (v r : Word) : Word :=
  if id = 0 then settle v r
  else if F32.finite v then drawIn (fun u => F32.finite u && F32.within u v) v r
  else r

/-- The outputs of implementation `id` for scalar results `vs`, "each output is drawn on its own" (R167). -/
def implOutputs (id : BitVec 3) (d : Nat) (vs : List Word) : List Word :=
  (vs.zipIdx d).map fun v => implOutput id v.1 (Config.freeWord v.2)

/-- A bank on the poison path: flag set and every history entry a draw (R162). -/
def Bank.poisoned (k : Bank) (d : Nat) : Bank := { k with hist := drawList d k.hist.length, poison := true }

/-- FIR.APPLY (R163). The lock is set by every performed FIR.APPLY (R168). -/
def execFirApply (pay : List Word) (s : State) : Out :=
  runCommand (.firApply pay) s fun s =>
    let h := (Instr.firApply pay).header
    let cause := pay.any (!F32.finite ·)
    if !s.filt.fir.valid then s.takeError .notConfigured h
    else if s.filt.fir.poison || cause then
      let s := if cause then s.takeError .nonfinite h else s
      let n := pay.length
      ((s.emit .outReal h 0 (drawList s.draws n)).setFilt
        { s.filt with lk := true, fir := s.filt.fir.poisoned (s.draws + n) }).drawn (n + s.filt.fir.hist.length)
    else
      let run := firLoop s.filt.fir pay
      ((s.setFilt { s.filt with lk := true, fir := run.1 }).emit .outReal h 0
        (implOutputs s.filt.fi s.draws run.2)).drawn run.2.length

/-- The output count of HB.DECIM: `floor((N + HB_PHASE_before) / 2)` (R164). -/
def hbCount (phase : Bool) (n : Nat) : Nat := (n + phase.toNat) / 2

/-- HB.DECIM (R164). The lock is set by every performed HB.DECIM (R168); the phase advances on the poison path too
(R162). -/
def execHbDecim (pay : List Word) (s : State) : Out :=
  runCommand (.hbDecim pay) s fun s =>
    let h := (Instr.hbDecim pay).header
    let cause := pay.any (!F32.finite ·)
    if !s.filt.hb.valid then s.takeError .notConfigured h
    else if s.filt.hb.poison || cause then
      let s := if cause then s.takeError .nonfinite h else s
      let m := hbCount s.filt.phase pay.length
      ((s.emit .outReal h 0 (drawList s.draws m)).setFilt
        { s.filt with
          lk := true, hb := s.filt.hb.poisoned (s.draws + m)
          phase := s.filt.phase != (pay.length % 2 = 1) }).drawn (m + s.filt.hb.hist.length)
    else
      let run := hbLoop s.filt.hb s.filt.phase pay
      ((s.setFilt { s.filt with lk := true, hb := run.1, phase := run.2.1 }).emit .outReal h 0
        (implOutputs s.filt.hi s.draws run.2.2)).drawn run.2.2.length

/-- A bank after FILT.RESET: the history cleared, the flag cleared, the rest kept (R165). -/
def Bank.clear (c : Config) (k : Bank) : Bank := { k with hist := List.replicate (c.maxTaps - 1) 0, poison := false }

/-- FILT.RESET's effect on both banks together (R165). -/
def State.resetFilters (s : State) : State :=
  s.setFilt { s.filt with fir := s.filt.fir.clear s.cfg, hb := s.filt.hb.clear s.cfg, phase := false }

/-- FILT.RESET (R165). -/
def execFiltReset (pay : List Word) (s : State) : Out :=
  runCommand (.filtReset pay) s fun s => s.resetFilters

/-- An implementation id, or the scalar baseline where the build lacks it: "mandated fallback" (R166). -/
def implOrScalar (c : Config) (id : BitVec 3) : BitVec 3 := if id.toNat < c.numFilterImpls then id else 0

/-- FILT.SELECT (R166). -/
def execFiltSelect (fi hi : BitVec 3) (lk : Bool) (pay : List Word) (s : State) : Out :=
  runCommand (.filtSelect fi hi lk pay) s fun s =>
    let h := (Instr.filtSelect fi hi lk pay).header
    if s.filt.lk then s.takeError .implLocked h
    else
      let s :=
        if s.cfg.numFilterImpls ≤ fi.toNat || s.cfg.numFilterImpls ≤ hi.toNat then s.takeError .implFallback h else s
      s.setFilt { s.filt with fi := implOrScalar s.cfg fi, hi := implOrScalar s.cfg hi, lk := lk }

end Sys2Proof.Machine
end

