-- ==== Sys2Proof/Machine/Gain.lean ====
section
/-! DEFINITION. The gain normalizer (41_gain.md): the peak-tracking mode and the feed-forward envelope mode. -/

namespace Sys2Proof.Machine

/-! ## Peak-tracking mode -/

/-- `legal_pg()` (R134). -/
def ConfigRegs.legalPg (c : ConfigRegs) : Bool :=
  F32.finitePos c.pgTarget && F32.finitePos c.pgMin && (F32.finite c.pgMax && F32.le c.pgMin c.pgMax) &&
  F32.finitePos c.pgCeil && F32.finitePos c.pgStep &&
  (F32.finite c.pgDecay && F32.le 0 c.pgDecay && F32.le c.pgDecay 0x3F800000)

/-- The buffer mean: the sum from +0.0, left to right, divided by N (R130). -/
def bufferMean (xs : List Word) : Word := F32.div (xs.foldl F32.add 0) (F32.ofNat xs.length)

/-- The samples with the DC bias removed: `y_i = x_i (-) mean` (R130). -/
def removeMean (xs : List Word) : List Word := xs.map fun x => F32.sub x (bufferMean xs)

/-- The decayed peak raised to the largest `|y_i|` (R130). -/
def trackPeak (c : ConfigRegs) (p : PeakGain) (ys : List Word) : Word :=
  ys.foldl (fun peak y => F32.max2 peak (F32.abs y)) (F32.mul p.peak c.pgDecay)

/-- The objective gain of a buffer with peak `peak` (R130). -/
def objectiveGain (c : ConfigRegs) (peak : Word) : Word := F32.clamp (F32.div c.pgTarget peak) c.pgMin c.pgMax

/-- One bounded step of the gain toward the objective (R130). -/
def stepGain (c : ConfigRegs) (obj g : Word) : Word :=
  if F32.lt g obj then F32.min2 (F32.add g c.pgStep) obj
  else if F32.lt obj g then F32.max2 (F32.sub g c.pgStep) obj
  else g

/-- One output sample: scaled by the gain, hard-clamped to `[-PG_CEIL, PG_CEIL]` (R130). -/
def scaleClamp (c : ConfigRegs) (g y : Word) : Word :=
  F32.clamp (F32.mul y g) (F32.neg c.pgCeil) c.pgCeil

/-- The per-sample loop from gain `g`: the last gain and the outputs in order (R130). -/
def gainLoop (c : ConfigRegs) (obj : Word) : Word → List Word → Word × List Word
  | g, [] => (g, [])
  | g, y :: ys =>
    let g' := stepGain c obj g
    let rest := gainLoop c obj g' ys
    (rest.1, scaleClamp c g' y :: rest.2)

/-- The poison path of the peak mode: one report when this command's values are the cause, then drawn outputs and a drawn
rolling state (R131). -/
def State.poisonPg (s : State) (h : Word) (cause : Bool) (n : Nat) : State :=
  let s := if cause then s.takeError .nonfinite h else s
  let s := s.emit .outReal h 0 (drawList s.draws n)
  (s.setPg {
    gain := Config.freeWord (s.draws + n), peak := Config.freeWord (s.draws + n + 1)
    obj := Config.freeWord (s.draws + n + 2), poison := true }).drawn (n + 3)

/-- PGAIN.PROC on a buffer that takes the normal path (R130). -/
def State.normalPg (s : State) (h : Word) (ys : List Word) : State :=
  let peak := trackPeak s.csr s.pg ys
  let obj := objectiveGain s.csr peak
  let run := gainLoop s.csr obj (F32.clamp s.pg.gain s.csr.pgMin s.csr.pgMax) ys
  (s.setPg { gain := run.1, peak := peak, obj := obj, poison := s.pg.poison }).emit .outReal h 0 run.2

/-- PGAIN.PROC (R130). -/
def execPgainProc (pay : List Word) (s : State) : Out :=
  runCommand (.pgainProc pay) s fun s =>
    let h := (Instr.pgainProc pay).header
    let cause := pay.any (!F32.finite ·) || (removeMean pay).any (!F32.finite ·)
    if !s.csr.legalPg then s.takeError .operandRange h
    else if pay.isEmpty then s.emit .outReal h 0 []
    else if s.pg.poison || cause then s.poisonPg h cause pay.length
    else s.normalPg h (removeMean pay)

/-- The peak-gain state after a reset to the current PG_INIT (R135). -/
def State.resetPg (s : State) : State :=
  s.setPg { gain := s.csr.pgInit, peak := 0, obj := s.csr.pgInit, poison := false }

/-- PGAIN.RESET (R135). -/
def execPgainReset (pay : List Word) (s : State) : Out :=
  runCommand (.pgainReset pay) s fun s =>
    if F32.finitePos s.csr.pgInit then s.resetPg
    else s.takeError .operandRange (Instr.pgainReset pay).header

/-- PGAIN.RESET's part of RESET_ALL: with an illegal PG_INIT it poisons the mode, so that its binary32 state is a draw
(70_reset_and_hazards.md R312, 93_implementation_defined.md I13; log 10). -/
def State.resetPgOrPoison (s : State) : State :=
  if F32.finitePos s.csr.pgInit then s.resetPg
  else
    (s.setPg {
      gain := Config.freeWord s.draws, peak := Config.freeWord (s.draws + 1)
      obj := Config.freeWord (s.draws + 2), poison := true }).drawn 3

/-! ## Feed-forward envelope mode -/

/-- `legal_eg()` (R138). -/
def ConfigRegs.legalEg (c : ConfigRegs) : Bool := F32.finitePos c.egObj && F32.finitePos c.egFloor

/-- The magnitude of a complex sample: `sqrt32((i (*) i) (+) (q (*) q))` (R136). -/
def magnitude (z : Word × Word) : Word := F32.sqrt (F32.add (F32.mul z.1 z.1) (F32.mul z.2 z.2))

/-- The gain for a window maximum: `EG_OBJ (/) max2(EG_MAX, EG_FLOOR)` (R136). -/
def envelopeGain (c : ConfigRegs) (max : Word) : Word := F32.div c.egObj (F32.max2 max c.egFloor)

/-- "a full rescan of the window" (R136). -/
def rescan (win : List Word) (w : Nat) : Word := (win.take w).foldl F32.max2 0

/-- The envelope state after a sample of magnitude `m` enters the window (R136). -/
def Envelope.enter (c : ConfigRegs) (e : Envelope) (m : Word) : Envelope :=
  let ej := e.win.getD e.wptr 0
  let win := e.win.set e.wptr m
  let wptr := (e.wptr + 1) % e.w
  if F32.lt e.max m then { e with win := win, wptr := wptr, max := m, gain := envelopeGain c m }
  else if F32.eq ej e.max then
    { e with win := win, wptr := wptr, max := rescan win e.w, gain := envelopeGain c (rescan win e.w) }
  else { e with win := win, wptr := wptr }

/-- The per-sample loop: the last envelope state and the outputs in order (R136). -/
def envelopeLoop (c : ConfigRegs) : Envelope → List (Word × Word) → Envelope × List (Word × Word)
  | e, [] => (e, [])
  | e, z :: zs =>
    let e' := e.enter c (magnitude z)
    let rest := envelopeLoop c e' zs
    (rest.1, (F32.mul z.1 e'.gain, F32.mul z.2 e'.gain) :: rest.2)

/-- The poison path of the envelope mode (R131): the window's live part, EG_MAX, EG_GAIN and every output are draws;
EG_WPTR keeps its rule. -/
def State.poisonEg (s : State) (h : Word) (cause : Bool) (n : Nat) : State :=
  let s := if cause then s.takeError .nonfinite h else s
  let s := s.emit .outCplx h 0 (drawList s.draws (2 * n))
  let d := s.draws + 2 * n
  (s.setEg { s.eg with
    win := drawList d (min s.eg.w s.eg.win.length) ++ s.eg.win.drop s.eg.w
    max := Config.freeWord (d + s.eg.w), gain := Config.freeWord (d + s.eg.w + 1)
    wptr := (s.eg.wptr + n) % s.eg.w, poison := true }).drawn (2 * n + s.eg.w + 2)

/-- EGAIN.PROC on samples that take the normal path (R136). An output that is a NaN (zero times an infinite gain) has
free bits (log 8). -/
def State.normalEg (s : State) (h : Word) (zs : List (Word × Word)) : State :=
  let run := envelopeLoop s.csr { s.eg with gain := envelopeGain s.csr s.eg.max } zs
  let outs := complexWords run.2
  ((s.setEg run.1).emit .outCplx h 0 (settleList s.draws outs)).drawn outs.length

/-- EGAIN.PROC (R136). -/
def execEgainProc (pay : List Word) (s : State) : Out :=
  runCommand (.egainProc pay) s fun s =>
    let h := (Instr.egainProc pay).header
    let zs := complexSamples pay
    let cause := pay.any (!F32.finite ·) || zs.any fun z => !F32.finite (magnitude z)
    if !s.csr.legalEg then s.takeError .operandRange h
    else if s.eg.poison || cause then s.poisonEg h cause zs.length
    else s.normalEg h zs

/-- The envelope state after a reset with the current EG_WINDOW, EG_OBJ and EG_FLOOR (R137). -/
def State.resetEg (s : State) : State :=
  s.setEg {
    win := List.replicate s.cfg.maxEnvWindow 0, wptr := 0, max := 0
    gain := F32.div s.csr.egObj s.csr.egFloor, w := s.csr.egWindow.toNat, poison := false }

/-- EGAIN.RESET (R137). -/
def execEgainReset (pay : List Word) (s : State) : Out :=
  runCommand (.egainReset pay) s fun s =>
    if s.csr.legalEg then s.resetEg else s.takeError .operandRange (Instr.egainReset pay).header

/-- EGAIN.RESET's part of RESET_ALL: with an illegal EG_OBJ or EG_FLOOR it poisons the mode; the window length and
pointer are still reset, and the mode's binary32 state is a draw (70_reset_and_hazards.md R312; log 10). -/
def State.resetEgOrPoison (s : State) : State :=
  if s.csr.legalEg then s.resetEg
  else
    let n := s.cfg.maxEnvWindow
    (s.setEg {
      win := drawList s.draws n, wptr := 0, max := Config.freeWord (s.draws + n)
      gain := Config.freeWord (s.draws + n + 1), w := s.csr.egWindow.toNat, poison := true }).drawn (n + 2)

end Sys2Proof.Machine
end

