-- ==== Sys2Proof/Machine/Sequencer.lean ====
section
/-! DEFINITION. The packet sequencer (46_packet_sequencer.md). -/

namespace Sys2Proof.Machine

/-- The code of PS_STATE (10_state.md R30). -/
def PsState.code : PsState → BitVec 2
  | .idle => 0 | .headerReceived => 1 | .accumulating => 2 | .complete => 3

/-- `bit_errors()` (R266). -/
def Sequencer.bitErrors (q : Sequencer) : Nat := q.herr.toNat + (q.blk.map fun b => b.err.toNat).sum

/-- `bits_processed()`: 0 in IDLE, otherwise the header and the data bits (R267). -/
def Sequencer.bitsProcessed (q : Sequencer) : Nat :=
  if q.state = .idle then 0 else 96 + (q.blk.map fun b => 8 * b.oct.toNat).sum

/-- One block of a PACKET payload: the descriptor `{OCT, ERR}`, then the packed data (R265). -/
def Block.words (b : Block) : List Word := (0#16 ++ b.oct ++ b.err) :: packOctets b.data

/-- The PACKET payload (R265). -/
def Sequencer.packetPayload (q : Sequencer) : List Word :=
  headerWords q.hdr ++ [BitVec.ofNat 32 q.bitErrors, BitVec.ofNat 32 q.bitsProcessed] ++ q.blk.flatMap Block.words

/-- `emit_packet()` by the command with header `h` (R265). -/
def State.emitPacket (s : State) (h : Word) : State :=
  (s.emit .packet h (BitVec.ofNat 16 s.ps.decl) s.ps.packetPayload).setCnt { s.cnt with packets := s.cnt.packets + 1 }

/-- A sequence is unfinished: HEADER_RECEIVED or ACCUMULATING (R261). -/
def Sequencer.unfinished (q : Sequencer) : Bool := q.state = .headerReceived || q.state = .accumulating

/-- The sequencer after PS.START with header `m` and its corrected count (R261). -/
def Sequencer.start (m : Header) (herr : BitVec 8) : Sequencer where
  state := if headerBtf m = 0 then .complete else .headerReceived
  hdr := m
  herr := herr
  decl := headerBtf m
  recv := 0
  blk := []

/-- PS.START (R261). -/
def execPsStart (herr : BitVec 8) (pay : List Word) (s : State) : Out :=
  runCommand (.psStart herr pay) s fun s =>
    let h := (Instr.psStart herr pay).header
    let s := if s.ps.unfinished then s.takeError .psAbandoned h else s
    let s := s.setPs (Sequencer.start (headerOfWords pay) herr)
    if s.ps.decl = 0 then s.emitPacket h else s

/-- The sequencer after an accepted block (R262). -/
def Sequencer.add (q : Sequencer) (b : Block) : Sequencer :=
  { q with
    blk := q.blk ++ [b], recv := q.recv + 1
    state := if q.recv + 1 = q.decl then .complete else .accumulating }

/-- PS.ADD (R262). -/
def execPsAdd (err oct : BitVec 8) (pay : List Word) (s : State) : Out :=
  runCommand (.psAdd err oct pay) s fun s =>
    let h := (Instr.psAdd err oct pay).header
    if s.ps.state = .idle then s.takeError .psNoHeader h
    else if s.ps.state = .complete then s.takeError .psOverflow h
    else
      let s := s.setPs (s.ps.add { err := err, oct := oct, data := unpackOctets oct.toNat pay })
      if s.ps.recv = s.ps.decl then s.emitPacket h else s

/-- PS_INFO's INFO field and the low half of PS_STAT: `{PS_RECV[6:0], PS_DECL[6:0], PS_STATE[1:0]}` (R263). -/
def Sequencer.stat (q : Sequencer) : BitVec 16 := BitVec.ofNat 7 q.recv ++ BitVec.ofNat 7 q.decl ++ q.state.code

/-- PS.QUERY (R263). -/
def execPsQuery (pay : List Word) (s : State) : Out :=
  runCommand (.psQuery pay) s fun s =>
    s.emit .psInfo (Instr.psQuery pay).header s.ps.stat
      [BitVec.ofNat 32 s.ps.bitErrors, BitVec.ofNat 32 s.ps.bitsProcessed]

/-- PS.RESET's effect (R264). -/
def State.resetSequencer (s : State) : State := s.setPs Sequencer.reset

/-- PS.RESET (R264). -/
def execPsReset (pay : List Word) (s : State) : Out :=
  runCommand (.psReset pay) s fun s => s.resetSequencer

end Sys2Proof.Machine
end

