-- ==== Sys2Proof/Machine/Control.lean ====
section
/-! DEFINITION. The control commands (40_control.md). -/

namespace Sys2Proof.Machine

/-- CTRL.NOP: no effect (R120). -/
def execNop (pay : List Word) (s : State) : Out := runCommand (.nop pay) s id

/-- CTRL.MARKER: the MARKER event with the tag (R121). -/
def execMarker (tag : BitVec 24) (pay : List Word) (s : State) : Out :=
  runCommand (.marker tag pay) s fun s => s.emit .marker (Instr.marker tag pay).header 0 [tag.setWidth 32]

/-- CTRL.RESET_ALL: the rolling-state reset of every unit; it never rejects, and poisons a gain mode whose configuration
is illegal instead (R122, 70_reset_and_hazards.md R311, R312). -/
def execResetAll (pay : List Word) (s : State) : Out :=
  runCommand (.resetAll pay) s fun s =>
    ((((s.resetPgOrPoison.resetEgOrPoison).resetFilters).resetDelayLine).resetCorrelator).resetSequencer

end Sys2Proof.Machine
end

