-- ==== Sys2Proof/Machine/Fec.lean ====
section
/-! DEFINITION. The trellis decoder and the CRC validator (45_fec.md). -/

namespace Sys2Proof.Machine

/-! ## Trellis code -/

/-- `OUT[s][u]` of a trellis table (00_scope.md R6). -/
def outSymbol (out : List (List (BitVec 4))) (s u : Nat) : BitVec 4 := (out.getD s []).getD u 0

/-- The encoder from state `s`: the state is the previous input (R232). -/
def encodeFrom (out : List (List (BitVec 4))) : Nat → List Nat → List (BitVec 4)
  | _, [] => []
  | s, u :: us => outSymbol out s u :: encodeFrom out u us

/-- The two dibits of a symbol, the high half first (R231). -/
def symbolDibits (c : BitVec 4) : List Dibit := [c.extractLsb' 2 2, c.extractLsb' 0 2]

/-- The received symbols `rs_j = 4*r_(2j) + r_(2j+1)` of a coded block of `n` steps (R231). -/
def receivedSymbols (n : Nat) (ws : List Word) : List (BitVec 4) :=
  (List.range n).map fun j => dibitAt ws (2 * j) ++ dibitAt ws (2 * j + 1)

/-- `popcount` of a 4-bit symbol (00_scope.md R12). -/
def popcount4 (v : BitVec 4) : Nat :=
  (v.getLsbD 0).toNat + (v.getLsbD 1).toNat + (v.getLsbD 2).toNat + (v.getLsbD 3).toNat

/-- The Hamming distance of two symbol sequences (R234). -/
def symbolCost (rs cs : List (BitVec 4)) : Nat := (List.zipWith (fun r c => popcount4 (r ^^^ c)) rs cs).sum

/-- One trellis step as the decoder sees it: the received symbol, and whether the input is forced to 0 (R232). -/
abbrev TrellisStep := BitVec 4 × Bool

/-- The steps of a received block: the last F inputs are forced to 0 (R232). -/
def trellisSteps (steps flush : Nat) (rs : List (BitVec 4)) : List TrellisStep :=
  rs.zipIdx.map fun r => (r.1, decide (steps - flush ≤ r.2))

/-- The inputs a step may take out of `n` (R232). -/
def inputsOf (n : Nat) (st : TrellisStep) : List Nat := if st.2 then [0] else List.range n

/-- The least element of a list of costs; 0 of the empty list, which does not occur. -/
def minList : List Nat → Nat
  | [] => 0
  | [a] => a
  | a :: rest => min a (minList rest)

/-- The cost of input `u` in state `s` at a step, given the least costs `tail` from each state on. -/
def branchCost (out : List (List (BitVec 4))) (st : TrellisStep) (tail : List Nat) (s u : Nat) : Nat :=
  popcount4 (st.1 ^^^ outSymbol out s u) + tail.getD u 0

/-- The least cost of completing the block from each of the `n` states (the Viterbi recursion; R234, log 23). -/
def costTable (n : Nat) (out : List (List (BitVec 4))) : List TrellisStep → List Nat
  | [] => List.replicate n 0
  | st :: rest =>
    let tail := costTable n out rest
    (List.range n).map fun s => minList ((inputsOf n st).map (branchCost out st tail s))

/-- One element of a list of tied inputs: the only one where there is one, otherwise the free value `r` chooses (R234). -/
def pickOne (us : List Nat) (r : Word) : Nat :=
  match us with
  | [u] => u
  | us => us.getD (r.toNat % us.length) 0

/-- A least-cost input sequence from state `s`. Where several inputs reach the least cost a free value chooses, so every
minimiser can result: `Draw({ admissible u : cost(u) == NEW })` (R234, log 23). -/
def traceBest (n : Nat) (out : List (List (BitVec 4))) : List TrellisStep → Nat → Nat → List Nat
  | [], _, _ => []
  | st :: rest, s, d =>
    let cost := branchCost out st (costTable n out rest) s
    let us := inputsOf n st
    let best := us.filter fun u => cost u = minList (us.map cost)
    let u := pickOne best (Config.freeWord d)
    u :: traceBest n out rest u (d + 1)

/-- The bits of an input of `k` bits, MSB first (R233). -/
def inputBits (k u : Nat) : Message := (List.range k).map fun b => u.testBit (k - 1 - b)

/-- The trellis decode (R234): FEC_RESULT with the total and new corrections and the `k*(S-F)` decoded bits, and the
counters. `rate` is the RATE bit, `k` the input width, `out` the table. -/
def State.trellisDecode (s : State) (h : Word) (rate : Bool) (k : Nat) (out : List (List (BitVec 4)))
    (prior : BitVec 16) (pay : List Word) : State :=
  let steps := s.cfg.trellisSteps
  let flush := s.cfg.trellisFlush
  let block := trellisSteps steps flush (receivedSymbols steps pay)
  let new := (costTable (2 ^ k) out block).getD 0 0
  let best := traceBest (2 ^ k) out block 0 s.draws
  let bits := (best.take (steps - flush)).flatMap (inputBits k)
  (((s.emit .fecResult h ((BitVec.ofBool rate).setWidth 16)
    ([BitVec.ofNat 32 (prior.toNat + new), BitVec.ofNat 32 new] ++ packBits bits)).setCnt
    { s.cnt with
      fecBlocks := s.cnt.fecBlocks + 1
      corrected := s.cnt.corrected + BitVec.ofNat 32 new }).drawn steps)

/-- FEC.DEC12, the half rate (R234). -/
def execFecDec12 (prior : BitVec 16) (pay : List Word) (s : State) : Out :=
  runCommand (.fecDec12 prior pay) s fun s =>
    s.trellisDecode (Instr.fecDec12 prior pay).header false 2 s.cfg.out12 prior pay

/-- FEC.DEC34, the three-quarter rate (R235). -/
def execFecDec34 (prior : BitVec 16) (pay : List Word) (s : State) : Out :=
  runCommand (.fecDec34 prior pay) s fun s =>
    s.trellisDecode (Instr.fecDec34 prior pay).header true 3 s.cfg.out34 prior pay

/-! ## Header CRC -/

/-- One shift of the CRC register (R240). -/
def crcShift (poly reg : BitVec 16) (b : Bool) : BitVec 16 :=
  if reg.msb != b then (reg <<< 1) ^^^ poly else reg <<< 1

/-- The MSB-first shift register over message bits (R240). -/
def crcRegister (poly init : BitVec 16) (m : Message) : BitVec 16 := m.foldl (crcShift poly) init

/-- `crc16` of the first 80 bits of a header (R240). -/
def crc16 (c : Config) (m : Header) : BitVec 16 := crcRegister c.crcPoly c.crcInit (headerBits80 m) ^^^ c.crcXorout

/-- `syn(m)` (R241). -/
def syndrome (c : Config) (m : Header) : BitVec 16 := crc16 c m ^^^ headerCrc m

/-- The 80-bit message with only bit `p` set (R241). -/
def unitMessage (p : Nat) : Message := (List.range 80).map fun j => j = p

/-- `SYN(p)`, the syndrome of a single flipped bit (R241). -/
def singleSyndrome (c : Config) (p : Nat) : BitVec 16 :=
  if p < 80 then crcRegister c.crcPoly 0 (unitMessage p) else 1#16 <<< (95 - p)

/-- A header with message bit `p` flipped (R244). -/
def flipBit (m : Header) (p : Nat) : Header := m ^^^ (1#96 <<< (95 - p))

/-- The positions whose single-bit syndrome is `z` (R244). -/
def syndromePositions (c : Config) (z : BitVec 16) : List Nat :=
  (List.range 96).filter fun p => singleSyndrome c p = z

/-- What CRC.HDR finds. -/
structure CrcVerdict where
  /-- The header, corrected where one bit was. -/
  header : Header
  /-- VALID. -/
  valid : Bool
  /-- CORR. -/
  corr : Bool
  /-- POS. -/
  pos : Nat
  deriving DecidableEq, Repr

/-- The verdict on a header: consistent, correctable by exactly one position, or invalid and unchanged (R244). -/
def checkHeader (c : Config) (m : Header) : CrcVerdict :=
  if syndrome c m = 0 then { header := m, valid := true, corr := false, pos := 0 }
  else
    match syndromePositions c (syndrome c m) with
    | [p] => { header := flipBit m p, valid := true, corr := true, pos := p }
    | _ => { header := m, valid := false, corr := false, pos := 0 }

/-- The INFO field of CRC_RESULT: `{pos[6:0], 000000, corr, valid}` (R244, 30_encoding.md R105). -/
def CrcVerdict.info (v : CrcVerdict) : BitVec 16 :=
  0#1 ++ BitVec.ofNat 7 v.pos ++ 0#6 ++ BitVec.ofBool v.corr ++ BitVec.ofBool v.valid

/-- The counters after CRC.HDR's verdict (R244). -/
def Counters.countCrc (n : Counters) (v : CrcVerdict) : Counters :=
  { n with
    crcOk := if v.valid then n.crcOk + 1 else n.crcOk
    crcFail := if v.valid then n.crcFail else n.crcFail + 1
    corrected := if v.corr then n.corrected + 1 else n.corrected }

/-- CRC.HDR (R244). -/
def execCrcHdr (pay : List Word) (s : State) : Out :=
  runCommand (.crcHdr pay) s fun s =>
    let v := checkHeader s.cfg (headerOfWords pay)
    (s.emit .crcResult (Instr.crcHdr pay).header v.info (headerWords v.header)).setCnt (s.cnt.countCrc v)

end Sys2Proof.Machine
end

