-- ==== Sys2Proof/Machine/Dispatch.lean ====
section
/-! DEFINITION. One arm per command: each calls its meaning. -/

namespace Sys2Proof.Machine

def exec (i : Instr) (s : State) : Host.Outcome State Fault Refusal :=
  match i with
  -- 40_control.md
  | .nop pay => Sys2Proof.Machine.execNop pay s
  | .marker tag pay => Sys2Proof.Machine.execMarker tag pay s
  | .resetAll pay => Sys2Proof.Machine.execResetAll pay s
  -- 41_gain.md
  | .pgainProc pay => Sys2Proof.Machine.execPgainProc pay s
  | .pgainReset pay => Sys2Proof.Machine.execPgainReset pay s
  | .egainProc pay => Sys2Proof.Machine.execEgainProc pay s
  | .egainReset pay => Sys2Proof.Machine.execEgainReset pay s
  -- 42_filter.md
  | .filtLoad b pay => Sys2Proof.Machine.execFiltLoad b pay s
  | .firApply pay => Sys2Proof.Machine.execFirApply pay s
  | .hbDecim pay => Sys2Proof.Machine.execHbDecim pay s
  | .filtReset pay => Sys2Proof.Machine.execFiltReset pay s
  | .filtSelect fi hi lk pay => Sys2Proof.Machine.execFiltSelect fi hi lk pay s
  -- 43_delay_line.md
  | .dlInsert sym c e pay => Sys2Proof.Machine.execDlInsert sym c e pay s
  | .dlUpdate n pay => Sys2Proof.Machine.execDlUpdate n pay s
  | .dlAdjust d pay => Sys2Proof.Machine.execDlAdjust d pay s
  | .dlExtract start len pay => Sys2Proof.Machine.execDlExtract start len pay s
  | .dlReset pay => Sys2Proof.Machine.execDlReset pay s
  -- 44_frame_correlator.md
  | .syncLoad k ndib tol v pay => Sys2Proof.Machine.execSyncLoad k ndib tol v pay s
  | .syncReset pay => Sys2Proof.Machine.execSyncReset pay s
  -- 45_fec.md
  | .fecDec12 prior pay => Sys2Proof.Machine.execFecDec12 prior pay s
  | .fecDec34 prior pay => Sys2Proof.Machine.execFecDec34 prior pay s
  | .crcHdr pay => Sys2Proof.Machine.execCrcHdr pay s
  -- 46_packet_sequencer.md
  | .psStart herr pay => Sys2Proof.Machine.execPsStart herr pay s
  | .psAdd err oct pay => Sys2Proof.Machine.execPsAdd err oct pay s
  | .psQuery pay => Sys2Proof.Machine.execPsQuery pay s
  | .psReset pay => Sys2Proof.Machine.execPsReset pay s

end Sys2Proof.Machine
end

