-- ==== Sys2Proof/Machine/Engine.lean ====
section
/-! DEFINITION. The engine: decoding the command in CA, performing it, holding for event-queue space, receiving a word
(10_state.md R20, 70_reset_and_hazards.md R322). -/

namespace Sys2Proof.Machine

/-- What the command words `h`, `p`, `pay` produce from a state: the decoded command's meaning, or the reject of a decode
check (30_encoding.md R92). "every command, performed or rejected" has an outcome (R22, R97). -/
def State.runWords (s : State) (h p : Word) (pay : List Word) : Out :=
  match decode s.cfg h p pay with
  | .ok i => exec i s
  | .error e => .next (s.takeError e h)

/-- The command's events do not fit: `EVQ_DEPTH - EVQ_COUNT < size(out)` (R20, R322), read off the queue with them. -/
def State.overflows (s : State) : Bool := s.cfg.evqDepth < s.evq.length

/-- After a performed command: CA is empty and CNT_CMD has counted it (R20). -/
def State.finish (s : State) : State :=
  { s with ca := .empty, cnt := { s.cnt with cmd := s.cnt.cmd + 1 } }

/-- The perform step on the command words in CA: HOLD while its events do not fit, otherwise all its effects at once
(R20). -/
def State.performWords (s : State) (h p : Word) (pay : List Word) : Out :=
  match s.runWords h p pay with
  | .next t => .next (if t.overflows then s else t.finish)
  | .fault r => .fault r
  | .refused r => .refused r

/-- HOLD: "the engine has a complete command it cannot perform for want of event-queue space" (R33). -/
def State.hold (s : State) : Bool :=
  match s.ca with
  | .body h p pay 0 =>
    match s.runWords h p pay with
    | .next t => t.overflows
    | _ => false
  | _ => false

/-- One engine step: perform the complete command in CA, else receive a word, else idle (R20). -/
def State.engineStep (s : State) : Out :=
  match s.ca with
  | .body h p pay 0 => s.performWords h p pay
  | _ => .next s.receive

end Sys2Proof.Machine
end

