-- ==== Sys2Proof/Machine/Flags.lean ====
section
/-! DEFINITION. The status flags and the words derived from state (10_state.md R33 to R35, R44 to R47, R49; the IRQ line of
60_exceptions.md R290). The block has no arithmetic condition codes (R49). -/

namespace Sys2Proof.Machine

/-- The IRQ output: `(EVT_IE and EVQ_COUNT != 0) or (ERR_IE and ERR_STICKY != 0)` (R290). -/
def State.irqLine (s : State) : Bool :=
  (s.irqEn.getLsbD 0 && !s.evq.isEmpty) || (s.irqEn.getLsbD 1 && s.errs.sticky != 0)

/-- The STATUS word, each field derived from state at the time of the read (R33). -/
def State.statusWord (s : State) : Word :=
  0#18 ++ BitVec.ofBool s.ca.isPartial ++ BitVec.ofBool s.filt.hb.poison ++ BitVec.ofBool s.filt.fir.poison ++
  BitVec.ofBool s.eg.poison ++ BitVec.ofBool s.pg.poison ++ BitVec.ofBool s.irqLine ++ s.ps.state.code ++
  BitVec.ofBool s.filt.hb.valid ++ BitVec.ofBool s.filt.fir.valid ++ BitVec.ofBool s.filt.lk ++
  BitVec.ofBool s.sync.inSync ++ BitVec.ofBool s.hold ++ BitVec.ofBool (!s.evq.isEmpty)

/-- ERR_STICKY after a host write of `v`: write 1 to clear (R35). -/
def stickyAfterWrite (old v : Word) : Word := old &&& ~~~v

/-- The word in which the register at offset `off` reads a count of queue words: the count, where 32 bits hold it. R6 bounds
the queue depths only from below, so a count can be 2^32 or more. What CMDQ_FREE (R38) and EVQ_COUNT (R39) read then is not
stated, so it is a free value of the register and the count (log 26, DESIGN CHOICE). -/
def countWord (off : BitVec 12) (n : Nat) : Word :=
  if n < 2 ^ 32 then BitVec.ofNat 32 n else Config.unstatedCount off n

/-- FILT_SEL: [2:0] FILT_FI, [6:4] FILT_HI, [8] FILT_LK (R31). -/
def Filters.selWord (f : Filters) : Word := 0#23 ++ BitVec.ofBool f.lk ++ 0#1 ++ f.hi ++ 0#1 ++ f.fi

/-- FIR_TAPS and HB_TAPS: the tap count, 0 while not loaded (R44). -/
def Bank.tapsWord (k : Bank) : Word := if k.valid then BitVec.ofNat 32 k.taps else 0

/-- SYNC_LAST: [3:0] index, [11:4] distance, [31] valid (R31). -/
def SyncLast.word (l : SyncLast) : Word := BitVec.ofBool l.valid ++ 0#19 ++ l.dist ++ l.k

/-- SYNC_TVALID: bit k is TPL[k].V (R31). -/
def Correlator.validWord (c : Correlator) : Word :=
  BitVec.ofNat 32 (c.tpl.foldr (fun t acc => 2 * acc + t.v.toNat) 0)

/-- PS_STAT: [1:0] PS_STATE, [8:2] PS_DECL, [15:9] PS_RECV (R31). -/
def Sequencer.statWord (q : Sequencer) : Word := 0#16 ++ q.stat

/-- EG_WINDOW after a host write of `w`: stored when legal, else unchanged (R42). -/
def windowAfterWrite (c : Config) (old : BitVec 16) (w : Word) : BitVec 16 :=
  let v := w.extractLsb' 0 16
  if 1 ≤ v.toNat ∧ v.toNat ≤ c.maxEnvWindow then v else old

end Sys2Proof.Machine
end

