-- ==== Sys2Proof/Machine/Csr.lean ====
section
/-! DEFINITION. The CSR space and the host's steps (10_state.md R31 to R48, 20_memory.md R70 to R77, 60_exceptions.md
R286). -/

namespace Sys2Proof.Machine

/-- The registers of the CSR map (R31). -/
inductive Csr where
  | id | rev | status | irqEn | errSticky | lastErr | lastErrCmd | cntCmd | cntErr | cmdqPush | cmdqFree | evqPop
  | evqCount | pgTarget | pgMin | pgMax | pgCeil | pgStep | pgDecay | pgInit | egObj | egFloor | egWindow | pgGain
  | pgPeak | pgObj | egGain | egMax | egWinActive | filtSel | firTaps | hbTaps | hbPhase | dlCap | dlPtr | syncMiss
  | syncLossThr | syncLast | syncTvalid | cntSyncMatch | cntSyncLost | cntFecBlocks | cntCorrected | cntCrcOk
  | cntCrcFail | cntPackets | cntPsAnomaly | psStat | psBiterr | psBits | psHdr0 | psHdr1 | psHdr2
  deriving DecidableEq, Repr

/-- The register at a byte offset; `none` at an unmapped offset (R31, R48). -/
def csrAt (off : BitVec 12) : Option Csr :=
  match off.toNat with
  | 0x000 => some .id | 0x004 => some .rev | 0x008 => some .status | 0x00C => some .irqEn | 0x010 => some .errSticky
  | 0x014 => some .lastErr | 0x018 => some .lastErrCmd | 0x01C => some .cntCmd | 0x020 => some .cntErr
  | 0x024 => some .cmdqPush | 0x028 => some .cmdqFree | 0x02C => some .evqPop | 0x030 => some .evqCount
  | 0x040 => some .pgTarget | 0x044 => some .pgMin | 0x048 => some .pgMax | 0x04C => some .pgCeil
  | 0x050 => some .pgStep | 0x054 => some .pgDecay | 0x058 => some .pgInit | 0x060 => some .egObj
  | 0x064 => some .egFloor | 0x068 => some .egWindow | 0x070 => some .pgGain | 0x074 => some .pgPeak
  | 0x078 => some .pgObj | 0x07C => some .egGain | 0x080 => some .egMax | 0x084 => some .egWinActive
  | 0x090 => some .filtSel | 0x094 => some .firTaps | 0x098 => some .hbTaps | 0x09C => some .hbPhase
  | 0x0A0 => some .dlCap | 0x0A4 => some .dlPtr | 0x0B0 => some .syncMiss | 0x0B4 => some .syncLossThr
  | 0x0B8 => some .syncLast | 0x0BC => some .syncTvalid | 0x0C0 => some .cntSyncMatch | 0x0C4 => some .cntSyncLost
  | 0x0C8 => some .cntFecBlocks | 0x0CC => some .cntCorrected | 0x0D0 => some .cntCrcOk | 0x0D4 => some .cntCrcFail
  | 0x0D8 => some .cntPackets | 0x0DC => some .cntPsAnomaly | 0x0F0 => some .psStat | 0x0F4 => some .psBiterr
  | 0x0F8 => some .psBits | 0x0FC => some .psHdr0 | 0x100 => some .psHdr1 | 0x104 => some .psHdr2
  | _ => none

/-- The word that a read of a register returns (R31 to R47). CMDQ_PUSH reads 0 (R38); EVQ_POP reads the oldest event word,
0 when there is none (R39). CMDQ_FREE and EVQ_COUNT read a count that 32 bits may not hold (`countWord`, log 26). -/
def State.csrWord (s : State) : Csr → Word
  | .id => s.cfg.hwId
  | .rev => s.cfg.hwRev
  | .status => s.statusWord
  | .irqEn => s.irqEn.setWidth 32
  | .errSticky => s.errs.sticky
  | .lastErr => s.errs.last.setWidth 32
  | .lastErrCmd => s.errs.lastCmd
  | .cntCmd => s.cnt.cmd
  | .cntErr => s.cnt.err
  | .cmdqPush => 0
  | .cmdqFree => countWord 0x028 (s.cfg.cmdqDepth - s.cmdq.length)
  | .evqPop => s.evq.headD 0
  | .evqCount => countWord 0x030 s.evq.length
  | .pgTarget => s.csr.pgTarget
  | .pgMin => s.csr.pgMin
  | .pgMax => s.csr.pgMax
  | .pgCeil => s.csr.pgCeil
  | .pgStep => s.csr.pgStep
  | .pgDecay => s.csr.pgDecay
  | .pgInit => s.csr.pgInit
  | .egObj => s.csr.egObj
  | .egFloor => s.csr.egFloor
  | .egWindow => s.csr.egWindow.setWidth 32
  | .pgGain => s.pg.gain
  | .pgPeak => s.pg.peak
  | .pgObj => s.pg.obj
  | .egGain => s.eg.gain
  | .egMax => s.eg.max
  | .egWinActive => BitVec.ofNat 32 s.eg.w
  | .filtSel => s.filt.selWord
  | .firTaps => s.filt.fir.tapsWord
  | .hbTaps => s.filt.hb.tapsWord
  | .hbPhase => BitVec.ofNat 32 s.filt.phase.toNat
  | .dlCap => BitVec.ofNat 32 s.cfg.dlCapacity
  | .dlPtr => BitVec.ofNat 32 s.dl.ptr
  | .syncMiss => s.sync.miss
  | .syncLossThr => s.csr.syncLossThr
  | .syncLast => s.sync.last.word
  | .syncTvalid => s.sync.validWord
  | .cntSyncMatch => s.cnt.syncMatch
  | .cntSyncLost => s.cnt.syncLost
  | .cntFecBlocks => s.cnt.fecBlocks
  | .cntCorrected => s.cnt.corrected
  | .cntCrcOk => s.cnt.crcOk
  | .cntCrcFail => s.cnt.crcFail
  | .cntPackets => s.cnt.packets
  | .cntPsAnomaly => s.cnt.psAnomaly
  | .psStat => s.ps.statWord
  | .psBiterr => BitVec.ofNat 32 s.ps.bitErrors
  | .psBits => BitVec.ofNat 32 s.ps.bitsProcessed
  | .psHdr0 => s.ps.hdr.extractLsb' 64 32
  | .psHdr1 => s.ps.hdr.extractLsb' 32 32
  | .psHdr2 => s.ps.hdr.extractLsb' 0 32

/-- The state after a host write of `v` to a register (R31): RW registers store, ERR_STICKY clears (R35), CMDQ_PUSH
appends to the command queue (R38), a write to a read-only register or to EVQ_POP is ignored (R39, R48). -/
def State.csrStore (s : State) (r : Csr) (v : Word) : State :=
  match r with
  | .irqEn => { s with irqEn := v.extractLsb' 0 2 }
  | .errSticky => s.setErrs { s.errs with sticky := stickyAfterWrite s.errs.sticky v }
  | .cmdqPush => { s with cmdq := s.cmdq ++ [v] }
  | .pgTarget => { s with csr := { s.csr with pgTarget := v } }
  | .pgMin => { s with csr := { s.csr with pgMin := v } }
  | .pgMax => { s with csr := { s.csr with pgMax := v } }
  | .pgCeil => { s with csr := { s.csr with pgCeil := v } }
  | .pgStep => { s with csr := { s.csr with pgStep := v } }
  | .pgDecay => { s with csr := { s.csr with pgDecay := v } }
  | .pgInit => { s with csr := { s.csr with pgInit := v } }
  | .egObj => { s with csr := { s.csr with egObj := v } }
  | .egFloor => { s with csr := { s.csr with egFloor := v } }
  | .egWindow => { s with csr := { s.csr with egWindow := windowAfterWrite s.cfg s.csr.egWindow v } }
  | .syncLossThr => { s with csr := { s.csr with syncLossThr := v } }
  | .id | .rev | .status | .lastErr | .lastErrCmd | .cntCmd | .cntErr | .cmdqFree | .evqPop | .evqCount | .pgGain
  | .pgPeak | .pgObj | .egGain | .egMax | .egWinActive | .filtSel | .firTaps | .hbTaps | .hbPhase | .dlCap | .dlPtr
  | .syncMiss | .syncLast | .syncTvalid | .cntSyncMatch | .cntSyncLost | .cntFecBlocks | .cntCorrected | .cntCrcOk
  | .cntCrcFail | .cntPackets | .cntPsAnomaly | .psStat | .psBiterr | .psBits | .psHdr0 | .psHdr1 | .psHdr2 => s

/-- The register that an access reaches: a 32-bit access at a multiple of 4 to a mapped offset (20_memory.md R74,
R286 (a), (b)). -/
def accessed (bytes : Nat) (off : BitVec 12) : Option Csr :=
  if bytes = 4 ∧ off.toNat % 4 = 0 then csrAt off else none

/-- The state after a host read returned `v`; the host keeps what it read (log 5). -/
def State.returnWord (s : State) (v : Word) : State := { s with hostReads := s.hostReads ++ [v] }

/-- A host read (R72). Only EVQ_POP and an erroneous access have a side effect (R75); an erroneous access, and a pop of an
empty event queue, read 0 and set ERR_STICKY[13] (R39, R286). -/
def State.hostRead (s : State) (bytes : Nat) (off : BitVec 12) : State :=
  match accessed bytes off with
  | none => s.takeAccessError.returnWord 0
  | some r =>
    if r = .evqPop then
      if s.evq.isEmpty then s.takeAccessError.returnWord 0
      else { s with evq := s.evq.tail }.returnWord (s.csrWord r)
    else s.returnWord (s.csrWord r)

/-- A host write (R72); an erroneous access changes nothing but ERR_STICKY[13] (R286). -/
def State.hostWrite (s : State) (bytes : Nat) (off : BitVec 12) (v : Word) : State :=
  match accessed bytes off with
  | none => s.takeAccessError
  | some r => s.csrStore r v

/-- The host's step is not enabled: a push while CMDQ_FREE = 0 is held (R38, R72). -/
def State.held (s : State) : HostAccess → Bool
  | .write bytes off _ => accessed bytes off = some .cmdqPush && decide (s.cfg.cmdqDepth ≤ s.cmdq.length)
  | .read _ _ => false

/-- One host step (R72). -/
def State.hostStep (s : State) : HostAccess → State
  | .read bytes off => s.hostRead bytes off
  | .write bytes off v => s.hostWrite bytes off v

/-- Power-on reset: every piece of the block's state takes its power-on value (70_reset_and_hazards.md R310); the
configuration, the outside world's turns and reads, and the number of draws made are not the block's (log 14). -/
def State.powerOn (s : State) : State :=
  { State.resetOf s.cfg with draws := s.draws, agenda := s.agenda, hostReads := s.hostReads }

/-- One step of the whole system: the turn at the head of the agenda. With no turn listed the engine moves (log 3); while a
host push is held it stays at the head and the engine moves (R38, log 4). -/
def State.takeTurn (s : State) : Out :=
  match s.agenda with
  | [] => s.engineStep
  | .engine :: rest => { s with agenda := rest }.engineStep
  | .powerOn :: rest => .next { s with agenda := rest }.powerOn
  | .host a :: rest =>
    if s.held a then s.engineStep else .next ({ s with agenda := rest }.hostStep a)

/-- CA holding the complete command `h`, `p`, `pay`, and the engine to move next (log 2). -/
def State.loadCommand (s : State) (h p : Word) (pay : List Word) : State :=
  { s with ca := .body h p pay 0, agenda := .engine :: s.agenda }

end Sys2Proof.Machine
end

