-- ==== Sys2Proof/Machine/Step.lean ====
section
/-! DEFINITION. One step of the machine, and how a table word is placed where the next step runs it. -/

namespace Sys2Proof.Machine

/-- One step: the next turn, an engine step, a host step or power-on (00_scope.md R3, 10_state.md R20). -/
def step : State → Host.Outcome State Fault Refusal := State.takeTurn

/-- The table word's command, complete in CA, with the engine to move next, so that the very next step performs it
(log 2, log 22). -/
def State.withFetchWord (s : State) (nbits w : Nat) : State :=
  let cmd := tableCommand s.cfg.maxPayloadWords nbits w
  s.loadCommand cmd.1 cmd.2.1 cmd.2.2

end Sys2Proof.Machine
end

