-- ==== Sys2Proof/WellFormed.lean ====
section
/-! DEFINITION. What a well-formed command is, and what a legal configuration is (00_scope.md R6). -/

namespace Sys2Proof

open Sys2Proof.Machine

/-- A command that no decode check of 30_encoding.md R92 rejects: its payload is within MAX_PAYLOAD_WORDS (check 2) and
has the length its command requires (check 4). Every constructor is an assigned command (check 1) and its fields leave no
reserved bit to set (check 3). -/
def Instr.wellFormed (c : Config) (i : Instr) : Bool :=
  decide (i.pay.length ≤ c.maxPayloadWords) && i.lengthOk c

/-- A trellis table of `n` rows of `n` symbols, injective in the input for each state (R6). -/
def tableLegal (n : Nat) (out : List (List (BitVec 4))) : Bool :=
  decide (out.length = n) && out.all fun row => decide (row.length = n) && decide row.Nodup

/-- The capacities within the ranges of R6. -/
def Config.capacitiesLegal (c : Config) : Bool :=
  decide (1 ≤ c.dlCapacity ∧ c.dlCapacity ≤ 4095) && decide (1 ≤ c.maxTemplates ∧ c.maxTemplates ≤ 16) &&
  decide (1 ≤ c.maxTaps ∧ c.maxTaps ≤ 65535) && decide (8 ≤ c.maxPayloadWords ∧ c.maxPayloadWords < 2 ^ 32) &&
  decide (1 ≤ c.maxEnvWindow ∧ c.maxEnvWindow ≤ 65535) && decide (1 ≤ c.cmdqDepth) &&
  decide (1 ≤ c.numFilterImpls ∧ c.numFilterImpls ≤ 8)

/-- The trellis parameters within the ranges of R6. -/
def Config.trellisLegal (c : Config) : Bool :=
  decide (2 ≤ c.trellisSteps ∧ c.trellisSteps ≤ 255) && decide (c.trellisFlush < c.trellisSteps) &&
  tableLegal 4 c.out12 && tableLegal 8 c.out34

/-- The reset values of the configuration registers within the ranges of R6. -/
def Config.resetsLegal (c : Config) : Bool :=
  F32.finitePos c.pgTargetRst && F32.finitePos c.pgMinRst && F32.finite c.pgMaxRst &&
  F32.le c.pgMinRst c.pgMaxRst && F32.finitePos c.pgCeilRst && F32.finitePos c.pgStepRst &&
  F32.finite c.pgDecayRst && F32.le 0 c.pgDecayRst && F32.le c.pgDecayRst 0x3F800000 &&
  F32.finitePos c.pgInitRst && F32.finitePos c.egObjRst && F32.finitePos c.egFloorRst &&
  decide (1 ≤ c.egWindowRst.toNat ∧ c.egWindowRst.toNat ≤ c.maxEnvWindow)

/-- A legal configuration (R6). The event-queue bound of R7 is apart: "A configuration that breaks this bound is legal". -/
def Config.legal (c : Config) : Bool := c.capacitiesLegal && c.trellisLegal && c.resetsLegal

/-- The constraint of R7 under which every command's output fits in the event queue. -/
def Config.eventsFit (c : Config) : Bool := decide (max (c.maxPayloadWords + 5) 8262 ≤ c.evqDepth)

end Sys2Proof
end

