-- ==== Sys2Proof/Safety.lean ====
section
/-! DEFINITION. What a sound state of the block is (the invariants the rules name), and the plain reference forms that
claims compare the machine with. -/

namespace Sys2Proof.Machine

/-! ## The invariant -/

/-- The delay line has L symbols and "`0 <= DL_PTR < L` holds in every state" (43_delay_line.md R196). -/
abbrev DelayLine.Ok (c : Config) (l : DelayLine) : Prop := l.buf.length = c.dlCapacity ∧ l.ptr < c.dlCapacity

/-- The envelope window has its capacity, a legal active length and a pointer inside it (10_state.md R25). -/
abbrev Envelope.Ok (c : Config) (e : Envelope) : Prop :=
  e.win.length = c.maxEnvWindow ∧ 1 ≤ e.w ∧ e.w ≤ c.maxEnvWindow ∧ e.wptr < e.w

/-- A bank has its capacities; a loaded one has a legal tap count and finite coefficients; the history of a bank that is
not poisoned is finite (10_state.md R26, 42_filter.md R160 to R162). -/
abbrev Bank.Ok (c : Config) (k : Bank) : Prop :=
  k.coef.length = c.maxTaps ∧ k.hist.length = c.maxTaps - 1 ∧
  (k.valid = true → 1 ≤ k.taps ∧ k.taps ≤ c.maxTaps ∧ ∀ h ∈ k.coef.take k.taps, F32.finite h = true) ∧
  (k.poison = false → ∀ x ∈ k.hist, F32.finite x = true)

/-- The selected implementations exist (42_filter.md R166), and a loaded half-band bank is symmetric (R160). -/
abbrev Filters.Ok (c : Config) (f : Filters) : Prop :=
  f.fir.Ok c ∧ f.hb.Ok c ∧ (f.hb.valid = true → symmetric (f.hb.coef.take f.hb.taps) = true) ∧
  f.fi.toNat < c.numFilterImpls ∧ f.hi.toNat < c.numFilterImpls

/-- A loaded template fits the line and its pattern has two bits a dibit (10_state.md R28, 44_frame_correlator.md R211). -/
abbrev Template.Ok (c : Config) (t : Template) : Prop :=
  t.v = true → 1 ≤ t.ndib ∧ t.ndib ≤ Config.maxTemplateDibits ∧ t.ndib ≤ c.dlCapacity ∧ t.tol < 128 ∧
    t.pat.length = 2 * t.ndib

/-- There are MAX_TEMPLATES slots, each sound (10_state.md R28). -/
abbrev Correlator.Ok (c : Config) (k : Correlator) : Prop := k.tpl.length = c.maxTemplates ∧ ∀ t ∈ k.tpl, t.Ok c

/-- PS_STATE agrees with the block counts (46_packet_sequencer.md R260). -/
abbrev Sequencer.StateOk (q : Sequencer) : Prop :=
  (q.state = .idle → q = Sequencer.reset) ∧ (q.state = .headerReceived → q.recv = 0 ∧ 0 < q.decl) ∧
  (q.state = .accumulating → 0 < q.recv ∧ q.recv < q.decl) ∧ (q.state = .complete → q.recv = q.decl)

/-- "In every state PS_RECV <= PS_DECL <= 127, and the stored block count equals PS_RECV" (R269); each block holds as many
octets as it says. -/
abbrev Sequencer.Ok (q : Sequencer) : Prop :=
  q.recv ≤ q.decl ∧ q.decl ≤ Config.maxBlocks ∧ q.blk.length = q.recv ∧ q.StateOk ∧
  ∀ b ∈ q.blk, b.data.length = b.oct.toNat

/-- CA keeps at most MAX_PAYLOAD_WORDS of the payload words received so far (30_encoding.md R91). -/
abbrev Assembly.Ok (c : Config) (a : Assembly) : Prop :=
  match a with
  | .empty => True
  | .header _ => True
  | .body _ p pay due => due ≤ p.toNat ∧ pay.length = min (p.toNat - due) c.maxPayloadWords

/-- The reserved bits of ERR_STICKY read 0 and LAST_ERR is a command-error code or 0 (10_state.md R35, R36). -/
abbrev ErrorRegs.Ok (e : ErrorRegs) : Prop := e.sticky &&& 0xFFFFC001#32 = 0#32 ∧ e.last.toNat ≤ 12

/-- A sound state: a legal configuration, every unit sound, a legal EG_WINDOW (10_state.md R42), the queues within their
capacities (20_memory.md R71). -/
abbrev State.Inv (s : State) : Prop :=
  s.cfg.legal = true ∧ s.dl.Ok s.cfg ∧ s.eg.Ok s.cfg ∧ s.filt.Ok s.cfg ∧ s.sync.Ok s.cfg ∧ s.ps.Ok ∧ s.ca.Ok s.cfg ∧
  s.errs.Ok ∧ (1 ≤ s.csr.egWindow.toNat ∧ s.csr.egWindow.toNat ≤ s.cfg.maxEnvWindow) ∧
  s.cmdq.length ≤ s.cfg.cmdqDepth ∧ s.evq.length ≤ s.cfg.evqDepth

/-- The envelope invariant of 10_state.md R25: outside poison the window holds finite magnitudes, never negative ones, and
"EG_MAX equals the maximum of EG_WIN[0 .. EG_W-1]". -/
abbrev Envelope.Law (e : Envelope) : Prop :=
  e.poison = false →
    (∀ m ∈ e.win.take e.w, F32.finite m = true ∧ F32.sign m = false) ∧ e.max = rescan e.win e.w

/-- Outside poison the peak mode's rolling state is finite and its peak is not below zero, so that 41_gain.md R132 can
hold of the next buffer. -/
abbrev PeakGain.Law (p : PeakGain) : Prop :=
  p.poison = false →
    F32.finite p.gain = true ∧ F32.finite p.peak = true ∧ F32.le 0 p.peak = true ∧ F32.finite p.obj = true

/-! ## Which commands drive which unit (10_state.md R50, 70_reset_and_hazards.md R311) -/

/-- The commands that may change the peak-gain unit. -/
def drivesPg : Instr → Bool
  | .pgainProc _ | .pgainReset _ | .resetAll _ => true
  | _ => false

/-- The commands that may change the envelope unit. -/
def drivesEg : Instr → Bool
  | .egainProc _ | .egainReset _ | .resetAll _ => true
  | _ => false

/-- The commands that may change the filter unit. -/
def drivesFilt : Instr → Bool
  | .filtLoad _ _ | .firApply _ | .hbDecim _ | .filtReset _ | .filtSelect _ _ _ _ | .resetAll _ => true
  | _ => false

/-- The commands that may change the delay line. -/
def drivesDl : Instr → Bool
  | .dlInsert _ _ _ _ | .dlUpdate _ _ | .dlAdjust _ _ | .dlReset _ | .resetAll _ => true
  | _ => false

/-- The commands that may change the correlator: SYNC.LOAD, SYNC.RESET, and DL.INSERT with C = 1. -/
def drivesSync : Instr → Bool
  | .dlInsert _ c _ _ => c
  | .syncLoad _ _ _ _ _ | .syncReset _ | .resetAll _ => true
  | _ => false

/-- The commands that may change the packet sequencer. -/
def drivesPs : Instr → Bool
  | .psStart _ _ | .psAdd _ _ _ | .psReset _ | .resetAll _ => true
  | _ => false

/-! ## Rounding -/

/-- The least magnitude, in units of 2^-149, that rounds to infinity: half a spacing above the largest finite binary32. -/
def F32.overflowUnits : Nat := (2 ^ 25 - 1) * 2 ^ 252

/-- `r` is the exact value `num / den` (`0 < den`, in units of 2^-149) "rounded once to nearest, ties to even" (00_scope.md
R11): infinite with the value's sign from `overflowUnits` on; below it finite, no finite binary32 nearer to the exact value,
and one as near only where `r`'s significand is even. -/
def F32.Rounds (num : Int) (den : Nat) (r : Word) : Prop :=
  if F32.overflowUnits * den ≤ num.natAbs then r = (if num < 0 then 0xFF800000#32 else 0x7F800000#32)
  else
    F32.finite r = true ∧
    ∀ c : Word, F32.finite c = true →
      let near := (F32.value r * den - num).natAbs
      let other := (F32.value c * den - num).natAbs
      near ≤ other ∧ (near = other → F32.value c ≠ F32.value r → F32.mag r % 2 = 0)

/-! ## Events -/

/-- The words of a list of events, each its head word and its payload (30_encoding.md R104). -/
def eventStream (es : List (Word × List Word)) : List Word :=
  es.flatMap fun e => e.1 :: BitVec.ofNat 32 e.2.length :: e.2

/-- A head word's TYPE is ERROR (30_encoding.md R105). -/
def isErrorHead (w : Word) : Bool := w.extractLsb' 24 8 == 0x0F#8

/-! ## Command sequences -/

/-- The commands of a list performed one after another (10_state.md R20: "strictly in the order they were pushed"). -/
def execAll : List Instr → State → Out
  | [], s => .next s
  | i :: is, s =>
    match exec i s with
    | .next t => execAll is t
    | .fault r => .fault r
    | .refused r => .refused r

/-- The symbol that a performed DL.INSERT inserts (43_delay_line.md R191). -/
def insertedSymbol : Instr → Option Dibit
  | .dlInsert sym _ _ [] => some sym
  | _ => none

/-- The commands that R197 keeps away: they move or rewrite the line other than by an insert. -/
def disturbsLine : Instr → Bool
  | .dlUpdate _ _ | .dlAdjust _ _ | .dlReset _ | .resetAll _ => true
  | _ => false

/-! ## Reference forms -/

/-- An admissible input sequence: `steps` inputs below `n`, the last `flush` of them 0 (45_fec.md R232). -/
abbrev Admissible (n steps flush : Nat) (us : List Nat) : Prop :=
  us.length = steps ∧ (∀ u ∈ us, u < n) ∧ ∀ j, steps - flush ≤ j → us.getD j 0 = 0

/-- `cost(u)`: the received symbols against the encoding of `us` from state 0 (R234). -/
def blockCost (out : List (List (BitVec 4))) (rs : List (BitVec 4)) (us : List Nat) : Nat :=
  symbolCost rs (encodeFrom out 0 us)

/-- The payload words of the coded block of an input sequence (R231, R232). -/
def codedBlock (out : List (List (BitVec 4))) (us : List Nat) : List Word :=
  packDibits ((encodeFrom out 0 us).flatMap symbolDibits)

/-- The envelope loop that rescans the window and recomputes the gain at every sample (41_gain.md R139). -/
def envelopeReference (c : ConfigRegs) : Envelope → List (Word × Word) → Envelope × List (Word × Word)
  | e, [] => (e, [])
  | e, z :: zs =>
    let win := e.win.set e.wptr (magnitude z)
    let max := rescan win e.w
    let e' := { e with win := win, wptr := (e.wptr + 1) % e.w, max := max, gain := envelopeGain c max }
    let rest := envelopeReference c e' zs
    (rest.1, (F32.mul z.1 e'.gain, F32.mul z.2 e'.gain) :: rest.2)

/-- The input stream of a bank, oldest first: its history and then the new inputs (42_filter.md R161). -/
def Bank.stream (k : Bank) (xs : List Word) : List Word := k.hist.reverse ++ xs

/-- `y[n]`, "the sum over k < T of h_k * x[n-k], summed in increasing k, each product and sum rounded" (R161). -/
def Bank.convolution (k : Bank) (xs : List Word) (n : Nat) : Word :=
  (List.range k.taps).foldl
    (fun acc j => F32.add acc (F32.mul (k.coef.getD j 0) ((k.stream xs).getD (k.hist.length + n - j) 0))) 0

/-- An output word `out` of an operation whose result is `v`: `v` itself, and some NaN where `v` is a NaN (log 8). -/
abbrev Agrees (out v : Word) : Prop := if F32.isNaN v = true then F32.isNaN out = true else out = v

/-- A slot that a correlation matches: loaded and within its tolerance (44_frame_correlator.md R212). -/
abbrev State.Matches (s : State) (k : Nat) (t : Template) : Prop :=
  s.sync.tpl[k]? = some t ∧ t.v = true ∧ s.distance t ≤ t.tol

/-- The number of bits in which two dibits differ. -/
def dibitDistance (a b : Dibit) : Nat := ((a ^^^ b).getLsbD 1).toNat + ((a ^^^ b).getLsbD 0).toNat

/-- The assigned `{UNIT, OP}` bytes with the reserved-zero bits of each ARG format, row by row from 30_encoding.md R93 and
R94. -/
def opcodeRows : List (BitVec 8 × Word) :=
  [(0x00, 0xFFFFFF), (0x01, 0x000000), (0x02, 0xFFFFFF), (0x10, 0xFFFFFF), (0x11, 0xFFFFFF), (0x12, 0xFFFFFF),
   (0x13, 0xFFFFFF), (0x20, 0xFFFFFE), (0x21, 0xFFFFFF), (0x22, 0xFFFFFF), (0x23, 0xFFFFFF), (0x24, 0xFFFE88),
   (0x30, 0xFFFCFC), (0x31, 0xFFF000), (0x32, 0xFFFFFE), (0x33, 0x000000), (0x34, 0xFFFFFF), (0x40, 0xF80000),
   (0x41, 0xFFFFFF), (0x50, 0xFF0000), (0x51, 0xFF0000), (0x52, 0xFFFFFF), (0x60, 0xFFFF00), (0x61, 0xFF0000),
   (0x62, 0xFFFFFF), (0x63, 0xFFFFFF)]

/-- The offsets of the CSR map (10_state.md R31). -/
def mappedOffsets : List Nat :=
  [0x000, 0x004, 0x008, 0x00C, 0x010, 0x014, 0x018, 0x01C, 0x020, 0x024, 0x028, 0x02C, 0x030, 0x040, 0x044, 0x048,
   0x04C, 0x050, 0x054, 0x058, 0x060, 0x064, 0x068, 0x070, 0x074, 0x078, 0x07C, 0x080, 0x084, 0x090, 0x094, 0x098,
   0x09C, 0x0A0, 0x0A4, 0x0B0, 0x0B4, 0x0B8, 0x0BC, 0x0C0, 0x0C4, 0x0C8, 0x0CC, 0x0D0, 0x0D4, 0x0D8, 0x0DC, 0x0F0,
   0x0F4, 0x0F8, 0x0FC, 0x100, 0x104]

/-- The power-on column of the CSR map (R31), for every register but EVQ_POP, with STATUS as R33 derives it. -/
def powerOnWords (c : Config) : List (BitVec 12 × Word) :=
  [(0x000, c.hwId), (0x004, c.hwRev), (0x008, 0), (0x00C, 0), (0x010, 0), (0x014, 0), (0x018, 0), (0x01C, 0),
   (0x020, 0), (0x024, 0), (0x028, countWord 0x028 c.cmdqDepth), (0x030, 0), (0x040, c.pgTargetRst),
   (0x044, c.pgMinRst), (0x048, c.pgMaxRst), (0x04C, c.pgCeilRst), (0x050, c.pgStepRst), (0x054, c.pgDecayRst),
   (0x058, c.pgInitRst), (0x060, c.egObjRst), (0x064, c.egFloorRst), (0x068, c.egWindowRst.setWidth 32),
   (0x070, c.pgInitRst), (0x074, 0), (0x078, c.pgInitRst), (0x07C, F32.div c.egObjRst c.egFloorRst), (0x080, 0),
   (0x084, c.egWindowRst.setWidth 32), (0x090, 0), (0x094, 0), (0x098, 0), (0x09C, 0),
   (0x0A0, BitVec.ofNat 32 c.dlCapacity), (0x0A4, 0), (0x0B0, 0), (0x0B4, c.syncLossThrRst), (0x0B8, 0), (0x0BC, 0),
   (0x0C0, 0), (0x0C4, 0), (0x0C8, 0), (0x0CC, 0), (0x0D0, 0), (0x0D4, 0), (0x0D8, 0), (0x0DC, 0), (0x0F0, 0),
   (0x0F4, 0), (0x0F8, 0), (0x0FC, 0), (0x100, 0), (0x104, 0)]

/-- The word of every register in any state, as the CSR map and R36 to R47 give it, except STATUS (R33) and EVQ_POP (R39). -/
def registerWords (s : State) : List (BitVec 12 × Word) :=
  [(0x000, s.cfg.hwId), (0x004, s.cfg.hwRev), (0x00C, BitVec.ofNat 32 s.irqEn.toNat), (0x010, s.errs.sticky),
   (0x014, BitVec.ofNat 32 s.errs.last.toNat), (0x018, s.errs.lastCmd), (0x01C, s.cnt.cmd), (0x020, s.cnt.err),
   (0x024, 0), (0x028, countWord 0x028 (s.cfg.cmdqDepth - s.cmdq.length)), (0x030, countWord 0x030 s.evq.length),
   (0x040, s.csr.pgTarget), (0x044, s.csr.pgMin), (0x048, s.csr.pgMax), (0x04C, s.csr.pgCeil), (0x050, s.csr.pgStep),
   (0x054, s.csr.pgDecay), (0x058, s.csr.pgInit), (0x060, s.csr.egObj), (0x064, s.csr.egFloor),
   (0x068, BitVec.ofNat 32 s.csr.egWindow.toNat), (0x070, s.pg.gain), (0x074, s.pg.peak), (0x078, s.pg.obj),
   (0x07C, s.eg.gain), (0x080, s.eg.max), (0x084, BitVec.ofNat 32 s.eg.w),
   (0x090, BitVec.ofNat 32 (s.filt.fi.toNat + 16 * s.filt.hi.toNat + 256 * s.filt.lk.toNat)),
   (0x094, if s.filt.fir.valid then BitVec.ofNat 32 s.filt.fir.taps else 0),
   (0x098, if s.filt.hb.valid then BitVec.ofNat 32 s.filt.hb.taps else 0), (0x09C, if s.filt.phase then 1 else 0),
   (0x0A0, BitVec.ofNat 32 s.cfg.dlCapacity), (0x0A4, BitVec.ofNat 32 s.dl.ptr), (0x0B0, s.sync.miss),
   (0x0B4, s.csr.syncLossThr),
   (0x0B8, BitVec.ofNat 32
     (s.sync.last.k.toNat + 16 * s.sync.last.dist.toNat + 2 ^ 31 * s.sync.last.valid.toNat)),
   (0x0BC, BitVec.ofNat 32
     ((List.range s.sync.tpl.length).map fun k => if (s.sync.tpl.getD k Template.reset).v then 2 ^ k else 0).sum),
   (0x0C0, s.cnt.syncMatch), (0x0C4, s.cnt.syncLost), (0x0C8, s.cnt.fecBlocks), (0x0CC, s.cnt.corrected),
   (0x0D0, s.cnt.crcOk), (0x0D4, s.cnt.crcFail), (0x0D8, s.cnt.packets), (0x0DC, s.cnt.psAnomaly),
   (0x0F0, BitVec.ofNat 32
     ((match s.ps.state with
       | .idle => 0 | .headerReceived => 1 | .accumulating => 2 | .complete => 3) +
      4 * (s.ps.decl % 128) + 512 * (s.ps.recv % 128))),
   (0x0F4, BitVec.ofNat 32 (s.ps.herr.toNat + (s.ps.blk.map fun b => b.err.toNat).sum)),
   (0x0F8, BitVec.ofNat 32
     (if s.ps.state = .idle then 0 else 96 + (s.ps.blk.map fun b => 8 * b.oct.toNat).sum)),
   (0x0FC, BitVec.ofNat 32 (s.ps.hdr.toNat / 2 ^ 64)), (0x100, BitVec.ofNat 32 (s.ps.hdr.toNat / 2 ^ 32)),
   (0x104, BitVec.ofNat 32 s.ps.hdr.toNat)]

/-- The state with a 32-bit host read of an offset to come next. -/
abbrev State.reading (s : State) (off : BitVec 12) (rest : List Turn) : State :=
  { s with agenda := .host (.read 4 off) :: rest }

/-- The state with a 32-bit host write to an offset to come next. -/
abbrev State.writing (s : State) (off : BitVec 12) (v : Word) (rest : List Turn) : State :=
  { s with agenda := .host (.write 4 off v) :: rest }

end Sys2Proof.Machine
end

