-- ==== Sys2Proof/Certificates/Slice0/Obligations.lean ====
section
/-! DEFINITION. The statements about the machine that the provers are asked to prove, each read from numbered rules of the
spec. Every witness of a hypothesis stands in Sys2Proof/Tests/Slice0.lean under the name `witness_<statement>`.

Many statements give a whole next state. That a unit's binary32 rolling state keeps its words there while the unit is poisoned
is the model's choice (log 9): 10_state.md R29 makes those values draws. -/

open Sys2Proof Sys2Proof.Machine

/-! ## The engine and the encoding -/

/-- One step on a complete command that decodes to `i` is `exec i`, and then either HOLD, with nothing changed, or CA emptied
and CNT_CMD counted (10_state.md R20). The agenda's engine turn is used up; an empty agenda means the engine moves. -/
def Obligations.StepRunsDecodedCommand : Prop :=
  ∀ (s t : State) (h p : Word) (pay : List Word) (rest : List Turn) (i : Instr),
    s.ca = .body h p pay 0 → (s.agenda = .engine :: rest ∨ (s.agenda = [] ∧ rest = [])) →
    decode s.cfg h p pay = .ok i → exec i { s with agenda := rest } = .next t →
    step s = .next
      (if t.cfg.evqDepth < t.evq.length then { s with agenda := rest }
       else { t with ca := .empty, cnt := { t.cnt with cmd := t.cnt.cmd + 1 } })

/-- One step on a complete command that fails a decode check: its ERROR event and bookkeeping, and it is consumed and
counted, unless the three words do not fit (10_state.md R20, 30_encoding.md R92, R97, 60_exceptions.md R285). -/
def Obligations.StepRejectsUndecodableWords : Prop :=
  ∀ (s : State) (h p : Word) (pay : List Word) (rest : List Turn) (e : ErrCode),
    s.ca = .body h p pay 0 → (s.agenda = .engine :: rest ∨ (s.agenda = [] ∧ rest = [])) →
    decode s.cfg h p pay = .error e →
    step s = .next
      (if s.cfg.evqDepth < s.evq.length + 3 then { s with agenda := rest }
       else
        { s with
          agenda := rest, ca := .empty
          evq := s.evq ++ [0x0F#8 ++ h.extractLsb' 24 8 ++ BitVec.ofNat 16 e.num, 1, h]
          errs := { sticky := s.errs.sticky ||| (1#32 <<< e.num), last := BitVec.ofNat 8 e.num, lastCmd := h }
          cnt := { s.cnt with cmd := s.cnt.cmd + 1, err := s.cnt.err + 1 } })

/-- Every header word decodes by the opcode map: an unassigned byte is illegal, then the length limit, then the reserved
bits, and otherwise exactly one command whose header word and payload are the words given (30_encoding.md R92 to R94,
R97). Check 4 is `ErrorBookkeeping`'s. -/
def Obligations.DecodeFollowsTheOpcodeMap : Prop :=
  ∀ (c : Config) (h p : Word) (pay : List Word),
    match opcodeRows.lookup (h.extractLsb' 24 8) with
    | none => decode c h p pay = .error .illegalCmd
    | some reserved =>
      if c.maxPayloadWords < p.toNat then decode c h p pay = .error .lengthLimit
      else if h &&& reserved ≠ 0 then decode c h p pay = .error .reservedArg
      else ∃ i, decode c h p pay = .ok i ∧ i.header = h ∧ i.pay = pay

/-- Words that the spec writes out decode to the commands it says they are (sanity). -/
def Obligations.SpecWordsDecode : Prop :=
  decode Config.refcfg 0x01ABCDEF 0 [] = .ok (.marker 0xABCDEF []) ∧
  decode Config.refcfg 0x10000000 1 [0x3F000000] = .ok (.pgainProc [0x3F000000]) ∧
  decode Config.refcfg 0x20000000 3 [0x3F000000, 0x3E800000, 0x3E000000] =
    .ok (.filtLoad false [0x3F000000, 0x3E800000, 0x3E000000]) ∧
  decode Config.refcfg 0x24000151 0 [] = .ok (.filtSelect 1 5 true []) ∧
  decode Config.refcfg 0x30000203 0 [] = .ok (.dlInsert 3 false true []) ∧
  decode Config.refcfg 0x31000004 1 [0x77000000] = .ok (.dlUpdate 4 [0x77000000]) ∧
  decode Config.refcfg 0x32000001 0 [] = .ok (.dlAdjust true []) ∧
  decode Config.refcfg 0x33008000 0 [] = .ok (.dlExtract 0 8 []) ∧
  decode Config.refcfg 0x40040840 1 [0x77000000] = .ok (.syncLoad 0 4 1 true [0x77000000]) ∧
  decode Config.refcfg 0x50000000 1 [0xA7100000] = .ok (.fecDec12 0 [0xA7100000]) ∧
  decode Config.refcfg 0x61000401 1 [0xDEADBEEF] = .ok (.psAdd 1 4 [0xDEADBEEF]) ∧
  decode Config.refcfg 0x70000000 0 [] = .error .illegalCmd ∧
  decode Config.refcfg 0x00000001 0 [] = .error .reservedArg

/-- The words of a well-formed command, at the head of any stream, are framed as that command and decode to it
(30_encoding.md R90, R93, R94, R99). -/
def Obligations.DecodeEncodeRoundTrip : Prop :=
  ∀ (c : Config) (i : Instr) (rest : List Word), c.legal = true → i.wellFormed c = true →
    ∃ h p pay, frame (encode i ++ rest) = some ((h, p, pay), rest) ∧ decode c h p pay = .ok i

/-- Receiving: the `2 + P` words of a command at the head of CMDQ move into CA, one a step, in order; payload words past the
first MAX_PAYLOAD_WORDS are counted and discarded (10_state.md R20, 30_encoding.md R91). -/
def Obligations.CommandAssembly : Prop :=
  ∀ (s : State) (h p : Word) (pay more : List Word),
    s.agenda = [] → s.ca = .empty → s.cmdq = h :: p :: (pay ++ more) → pay.length = p.toNat →
    Host.Core.run Sys2Proof.core (2 + p.toNat) s =
      .next { s with cmdq := more, ca := .body h p (pay.take s.cfg.maxPayloadWords) 0 }

/-- The engine never halts: every step has a next state, and the engine alone makes no progress exactly in HOLD and with
nothing to receive (60_exceptions.md R288). -/
def Obligations.EngineNeverHalts : Prop :=
  (∀ s : State, ∃ t, step s = .next t) ∧
  ∀ s : State, s.agenda = [] →
    (step s = .next s ↔ s.hold = true ∨ (s.cmdq = [] ∧ s.ca.isComplete = false))

/-- Every step keeps a sound state sound (10_state.md R25 to R28, R30, R35, R42, 20_memory.md R71, 30_encoding.md R91). -/
def Obligations.StepKeepsInvariant : Prop :=
  ∀ s t : State, s.Inv → step s = .next t → t.Inv

/-- The power-on state is sound, under every legal configuration and so under the one that `State.reset` uses (the model's
choice, log 1), and both gain modes satisfy their laws there. -/
def Obligations.ResetMeetsInvariant : Prop :=
  (∀ c : Config, c.legal = true →
    (State.resetOf c).Inv ∧ (State.resetOf c).eg.Law ∧ (State.resetOf c).pg.Law) ∧
  State.reset.Inv

/-- With the event queue empty and a configuration that meets R7, no command holds (00_scope.md R7, 30_encoding.md R96,
70_reset_and_hazards.md R322). -/
def Obligations.EmptyQueueNeverHolds : Prop :=
  ∀ s : State, s.Inv → s.cfg.eventsFit = true → s.evq = [] → s.hold = false

/-! ## What every command leaves alone -/

/-- No command writes the configuration registers, IRQ_EN, CMDQ, CA, CNT_CMD, the configuration or the outside world's
turns and reads; events are only appended (10_state.md R20, 40_control.md R124). -/
def Obligations.CommandFrame : Prop :=
  ∀ (i : Instr) (s t : State), exec i s = .next t →
    t.cfg = s.cfg ∧ t.csr = s.csr ∧ t.irqEn = s.irqEn ∧ t.cmdq = s.cmdq ∧ t.ca = s.ca ∧ t.cnt.cmd = s.cnt.cmd ∧
    t.agenda = s.agenda ∧ t.hostReads = s.hostReads ∧ s.evq <+: t.evq

/-- A command leaves every unit it does not drive as it was, and coefficients, tap counts and VALID bits change only by
FILT.LOAD, templates only by SYNC.LOAD, the implementation selection only by FILT.SELECT (10_state.md R50,
70_reset_and_hazards.md R311). For a poisoned unit, that its binary32 rolling state (gain, peak, objective, window, histories)
keeps its words is the model's choice (log 9): 10_state.md R29 makes those values draws. -/
def Obligations.UnitFrames : Prop :=
  ∀ (i : Instr) (s t : State), exec i s = .next t →
    (drivesPg i = false → t.pg = s.pg) ∧ (drivesEg i = false → t.eg = s.eg) ∧
    (drivesFilt i = false → t.filt = s.filt) ∧ (drivesDl i = false → t.dl = s.dl) ∧
    (drivesSync i = false → t.sync = s.sync) ∧ (drivesPs i = false → t.ps = s.ps) ∧
    ((∀ b pay, i ≠ .filtLoad b pay) →
      t.filt.fir.coef = s.filt.fir.coef ∧ t.filt.fir.taps = s.filt.fir.taps ∧ t.filt.fir.valid = s.filt.fir.valid ∧
      t.filt.hb.coef = s.filt.hb.coef ∧ t.filt.hb.taps = s.filt.hb.taps ∧ t.filt.hb.valid = s.filt.hb.valid) ∧
    ((∀ k n tol v pay, i ≠ .syncLoad k n tol v pay) → t.sync.tpl = s.sync.tpl) ∧
    ((∀ fi hi lk pay, i ≠ .filtSelect fi hi lk pay) → t.filt.fi = s.filt.fi ∧ t.filt.hi = s.filt.hi)

/-- A command appends whole events that name its own unit and operation. Either it makes no error, and none of them is an
ERROR event, or exactly one of the codes 1 to 12, whose bookkeeping is done once and whose ERROR event is the first of them and
the only one (30_encoding.md R104, 60_exceptions.md R281, R283, R285). -/
def Obligations.AtMostOneError : Prop :=
  ∀ (i : Instr) (s t : State), exec i s = .next t →
    ∃ events : List (Word × List Word), t.evq = s.evq ++ eventStream events ∧
      (∀ e ∈ events, e.1.extractLsb' 16 8 = i.header.extractLsb' 24 8) ∧
      ((t.errs = s.errs ∧ t.cnt.err = s.cnt.err ∧ t.cnt.psAnomaly = s.cnt.psAnomaly ∧
        ∀ e ∈ events, isErrorHead e.1 = false) ∨
       ∃ (c : ErrCode) (others : List (Word × List Word)), 1 ≤ c.num ∧ c.num ≤ 12 ∧
        t.errs.sticky = s.errs.sticky ||| (1#32 <<< c.num) ∧ t.errs.last = BitVec.ofNat 8 c.num ∧
        t.errs.lastCmd = i.header ∧ t.cnt.err = s.cnt.err + 1 ∧
        t.cnt.psAnomaly =
          (if c.num = 10 ∨ c.num = 11 ∨ c.num = 12 then s.cnt.psAnomaly + 1 else s.cnt.psAnomaly) ∧
        events = (0x0F#8 ++ i.header.extractLsb' 24 8 ++ BitVec.ofNat 16 c.num, [i.header]) :: others ∧
        ∀ e ∈ others, isErrorHead e.1 = false)

/-- The bookkeeping of a command error, whole, and the commands that a wrong length P makes it for (30_encoding.md R92,
R93, 60_exceptions.md R285). Statements below write `takeError` for it. -/
def Obligations.ErrorBookkeeping : Prop :=
  (∀ (s : State) (c : ErrCode) (h : Word),
    s.takeError c h =
      { s with
        evq := s.evq ++ [0x0F#8 ++ h.extractLsb' 24 8 ++ BitVec.ofNat 16 c.num, 1, h]
        errs := { sticky := s.errs.sticky ||| (1#32 <<< c.num), last := BitVec.ofNat 8 c.num, lastCmd := h }
        cnt := { s.cnt with
          err := s.cnt.err + 1
          psAnomaly :=
            if c.num = 10 ∨ c.num = 11 ∨ c.num = 12 then s.cnt.psAnomaly + 1 else s.cnt.psAnomaly } }) ∧
  ∀ (s : State) (i : Instr),
    (match i with
      | .pgainProc _ | .filtLoad _ _ | .firApply _ | .hbDecim _ => False
      | .egainProc pay => pay.length % 2 = 1
      | .dlUpdate n pay => pay.length ≠ (n.toNat + 15) / 16
      | .syncLoad _ ndib _ v pay => pay.length ≠ if v then (ndib.toNat + 15) / 16 else 0
      | .fecDec12 _ pay | .fecDec34 _ pay => pay.length ≠ (s.cfg.trellisSteps + 7) / 8
      | .crcHdr pay | .psStart _ pay => pay.length ≠ 3
      | .psAdd _ oct pay => pay.length ≠ (oct.toNat + 3) / 4
      | other => other.pay ≠ []) →
    exec i s = .next (s.takeError .lengthMismatch i.header)

/-- A poison flag that is set stays set under every command but the unit's own reset and RESET_ALL (10_state.md R29). -/
def Obligations.PoisonClearedOnlyByReset : Prop :=
  ∀ (i : Instr) (s t : State), exec i s = .next t → (∀ pay, i ≠ .resetAll pay) →
    (s.pg.poison = true → (∀ pay, i ≠ .pgainReset pay) → t.pg.poison = true) ∧
    (s.eg.poison = true → (∀ pay, i ≠ .egainReset pay) → t.eg.poison = true) ∧
    (s.filt.fir.poison = true → (∀ pay, i ≠ .filtReset pay) → t.filt.fir.poison = true) ∧
    (s.filt.hb.poison = true → (∀ pay, i ≠ .filtReset pay) → t.filt.hb.poison = true)

/-! ## Data formats -/

/-- Packing and unpacking agree: dibits, message bits, octets and headers (00_scope.md R9, R10, 30_encoding.md R100). -/
def Obligations.PackingRoundTrips : Prop :=
  (∀ ds : List Dibit, unpackDibits ds.length (packDibits ds) = ds) ∧
  (∀ m : Message, unpackBits m.length (packBits m) = m) ∧
  (∀ os : List Octet, unpackOctets os.length (packOctets os) = os) ∧
  (∀ m : Header, headerOfWords (headerWords m) = m) ∧
  (∀ ds : List Dibit, unpackBits (2 * ds.length) (packDibits ds) = expandDibits ds)

/-- Sum, difference, product, quotient, the conversion of an integer and the square root are the exact results rounded once to
nearest, ties to even, and infinite exactly from the overflow threshold on (00_scope.md R11). `F32.Rounds` says so in units of
2^-149. The square root of a value not below zero is always finite, and no midpoint lies between it and the exact root. -/
def Obligations.ArithmeticRoundsToNearest : Prop :=
  ∀ a b c : Word, F32.finite a = true → F32.finite b = true → F32.finite c = true →
    F32.Rounds (F32.value a + F32.value b) 1 (F32.add a b) ∧
    F32.Rounds (F32.value a - F32.value b) 1 (F32.sub a b) ∧
    F32.Rounds (F32.value a * F32.value b) (2 ^ 149) (F32.mul a b) ∧
    (F32.value b ≠ 0 →
      F32.Rounds (F32.value a * 2 ^ 149 * (F32.value b).sign) (F32.value b).natAbs (F32.div a b)) ∧
    (∀ n : Nat, F32.Rounds (n * 2 ^ 149) 1 (F32.ofNat n)) ∧
    (0 ≤ F32.value a → 0 ≤ F32.value c →
      F32.finite (F32.sqrt a) = true ∧
      let root := F32.value (F32.sqrt a)
      (F32.value c < root → (root + F32.value c) ^ 2 ≤ 4 * (F32.value a * 2 ^ 149)) ∧
      (root < F32.value c → 4 * (F32.value a * 2 ^ 149) ≤ (root + F32.value c) ^ 2))

/-! ## Control commands -/

/-- CTRL.NOP changes nothing; CTRL.MARKER appends its event and changes nothing else (40_control.md R120, R121). -/
def Obligations.NopAndMarkerEffects : Prop :=
  ∀ (s : State) (tag : BitVec 24),
    exec (.nop []) s = .next s ∧
    exec (.marker tag []) s = .next { s with evq := s.evq ++ [0x0B010000, 1, 0#8 ++ tag] }

/-- CTRL.RESET_ALL: each unit's reset, or the poison flag of a gain mode whose configuration is illegal, and everything else
kept (40_control.md R122, 70_reset_and_hazards.md R311, R312). That EG_W, EG_WPTR and the window's length are reset when EG_OBJ
or EG_FLOOR is illegal is the model's choice (log 10): R122 says poison "instead" of the mode's reset. -/
def Obligations.ResetAllEffect : Prop :=
  ∀ s : State, ∃ t : State, exec (.resetAll []) s = .next t ∧
    (F32.finitePos s.csr.pgInit = true →
      t.pg = { gain := s.csr.pgInit, peak := 0, obj := s.csr.pgInit, poison := false }) ∧
    (F32.finitePos s.csr.pgInit = false → t.pg.poison = true) ∧
    (F32.finitePos s.csr.egObj = true → F32.finitePos s.csr.egFloor = true →
      t.eg = {
        win := List.replicate s.cfg.maxEnvWindow 0, wptr := 0, max := 0
        gain := F32.div s.csr.egObj s.csr.egFloor, w := s.csr.egWindow.toNat, poison := false }) ∧
    (F32.finitePos s.csr.egObj = false ∨ F32.finitePos s.csr.egFloor = false →
      t.eg.poison = true ∧ t.eg.w = s.csr.egWindow.toNat ∧ t.eg.wptr = 0 ∧ t.eg.win.length = s.cfg.maxEnvWindow) ∧
    t = { s with
      pg := t.pg, eg := t.eg
      filt := { s.filt with
        fir := { s.filt.fir with hist := List.replicate (s.cfg.maxTaps - 1) 0, poison := false }
        hb := { s.filt.hb with hist := List.replicate (s.cfg.maxTaps - 1) 0, poison := false }
        phase := false }
      dl := { buf := List.replicate s.cfg.dlCapacity 0, ptr := 0 }
      sync := { s.sync with miss := 0, inSync := false, last := { valid := false, dist := 0, k := 0 } }
      ps := { state := .idle, hdr := 0, herr := 0, decl := 0, recv := 0, blk := [] }
      draws := t.draws }

/-- The per-unit reset commands, each whole, with the rejects of the two gain resets (41_gain.md R135, R137, 42_filter.md
R165, 43_delay_line.md R195, 44_frame_correlator.md R215, 46_packet_sequencer.md R264). -/
def Obligations.UnitResets : Prop :=
  ∀ s : State,
    exec (.pgainReset []) s =
      .next (if F32.finitePos s.csr.pgInit = true then
          { s with pg := { gain := s.csr.pgInit, peak := 0, obj := s.csr.pgInit, poison := false } }
        else s.takeError .operandRange 0x11000000) ∧
    exec (.egainReset []) s =
      .next (if F32.finitePos s.csr.egObj = true ∧ F32.finitePos s.csr.egFloor = true then
          { s with
            eg := {
              win := List.replicate s.cfg.maxEnvWindow 0, wptr := 0, max := 0
              gain := F32.div s.csr.egObj s.csr.egFloor, w := s.csr.egWindow.toNat, poison := false } }
        else s.takeError .operandRange 0x13000000) ∧
    exec (.filtReset []) s = .next { s with
      filt := { s.filt with
        fir := { s.filt.fir with hist := List.replicate (s.cfg.maxTaps - 1) 0, poison := false }
        hb := { s.filt.hb with hist := List.replicate (s.cfg.maxTaps - 1) 0, poison := false }
        phase := false } } ∧
    exec (.dlReset []) s = .next { s with dl := { buf := List.replicate s.cfg.dlCapacity 0, ptr := 0 } } ∧
    exec (.syncReset []) s = .next { s with
      sync := { s.sync with miss := 0, inSync := false, last := { valid := false, dist := 0, k := 0 } } } ∧
    exec (.psReset []) s = .next { s with
      ps := { state := .idle, hdr := 0, herr := 0, decl := 0, recv := 0, blk := [] } }

/-! ## Gain normalizer -/

/-- PGAIN.PROC on a nonempty buffer off the poison path: the mean removed, the peak, the objective, the per-sample gains and
the clamped outputs as R130 gives them, and nothing else changed. `gs` is the gain before the first sample and after each. -/
def Obligations.PgainProcResult : Prop :=
  ∀ (s : State) (pay : List Word),
    let c := s.csr
    let mean := F32.div (pay.foldl F32.add 0) (F32.ofNat pay.length)
    let ys := pay.map fun x => F32.sub x mean
    let peak := ys.foldl (fun p y => F32.max2 p (F32.abs y)) (F32.mul s.pg.peak c.pgDecay)
    let obj := F32.clamp (F32.div c.pgTarget peak) c.pgMin c.pgMax
    c.legalPg = true → pay ≠ [] → s.pg.poison = false →
    (∀ x ∈ pay, F32.finite x = true) → (∀ y ∈ ys, F32.finite y = true) →
    ∃ gs outs : List Word, gs.length = pay.length + 1 ∧ outs.length = pay.length ∧
      gs.getD 0 0 = F32.clamp s.pg.gain c.pgMin c.pgMax ∧
      (∀ i, i < pay.length →
        gs.getD (i + 1) 0 =
          (if F32.lt (gs.getD i 0) obj = true then F32.min2 (F32.add (gs.getD i 0) c.pgStep) obj
           else if F32.lt obj (gs.getD i 0) = true then F32.max2 (F32.sub (gs.getD i 0) c.pgStep) obj
           else gs.getD i 0) ∧
        outs.getD i 0 = F32.clamp (F32.mul (ys.getD i 0) (gs.getD (i + 1) 0)) (F32.neg c.pgCeil) c.pgCeil) ∧
      exec (.pgainProc pay) s = .next { s with
        pg := { gain := gs.getD pay.length 0, peak := peak, obj := obj, poison := false }
        evq := s.evq ++ [0x01100000, BitVec.ofNat 32 pay.length] ++ outs }

/-- The gain commands' other outcomes: an illegal configuration rejects, an empty real buffer gives an empty event, and the
poison path reports its cause once, sets the flag and still emits one output a sample (41_gain.md R130, R131, R136). -/
def Obligations.GainOtherPaths : Prop :=
  ∀ (s : State) (pay : List Word),
    (s.csr.legalPg = false → exec (.pgainProc pay) s = .next (s.takeError .operandRange 0x10000000)) ∧
    (s.csr.legalPg = true → exec (.pgainProc []) s = .next { s with evq := s.evq ++ [0x01100000, 0] }) ∧
    (let mean := F32.div (pay.foldl F32.add 0) (F32.ofNat pay.length)
     let cause := pay.any fun x => !F32.finite x || !F32.finite (F32.sub x mean)
     let base := if cause then s.takeError .nonfinite 0x10000000 else s
     s.csr.legalPg = true → pay ≠ [] → (s.pg.poison = true ∨ cause = true) →
     ∃ (t : State) (outs : List Word), exec (.pgainProc pay) s = .next t ∧ outs.length = pay.length ∧
       t.pg.poison = true ∧
       t = { base with
         pg := t.pg, evq := base.evq ++ [0x01100000, BitVec.ofNat 32 pay.length] ++ outs, draws := t.draws }) ∧
    (pay.length % 2 = 0 →
     (F32.finitePos s.csr.egObj = false ∨ F32.finitePos s.csr.egFloor = false) →
     exec (.egainProc pay) s = .next (s.takeError .operandRange 0x12000000)) ∧
    (let cause := pay.any (fun x => !F32.finite x) || (complexSamples pay).any fun z => !F32.finite (magnitude z)
     let base := if cause then s.takeError .nonfinite 0x12000000 else s
     pay.length % 2 = 0 → F32.finitePos s.csr.egObj = true → F32.finitePos s.csr.egFloor = true →
     (s.eg.poison = true ∨ cause = true) →
     ∃ (t : State) (outs : List Word), exec (.egainProc pay) s = .next t ∧ outs.length = pay.length ∧
       t.eg.poison = true ∧ t.eg.w = s.eg.w ∧ t.eg.wptr = (s.eg.wptr + pay.length / 2) % s.eg.w ∧
       t.eg.win.drop s.eg.w = s.eg.win.drop s.eg.w ∧ t.eg.win.length = s.eg.win.length ∧
       t = { base with
         eg := t.eg, evq := base.evq ++ [0x02120000, BitVec.ofNat 32 pay.length] ++ outs, draws := t.draws })

/-- Outside poison the peak mode's rolling state stays finite and its peak never goes below zero, under every step
(41_gain.md R130, R132). -/
def Obligations.PeakGainLawKept : Prop :=
  ∀ s t : State, s.Inv → s.pg.Law → step s = .next t → t.pg.Law

/-- Gain boundedness: after a PGAIN.PROC of at least one sample that does not take the poison path, the gain and the
objective are within [PG_MIN, PG_MAX] (41_gain.md R132). An empty buffer changes no state (R130), so it is left out; the
premise `PeakGain.Law` rules out states that no run reaches. -/
def Obligations.GainStaysInRange : Prop :=
  ∀ (s t : State) (pay : List Word), s.csr.legalPg = true → s.pg.Law → pay ≠ [] →
    exec (.pgainProc pay) s = .next t → t.pg.poison = false →
    F32.le s.csr.pgMin t.pg.gain = true ∧ F32.le t.pg.gain s.csr.pgMax = true ∧
    F32.le s.csr.pgMin t.pg.obj = true ∧ F32.le t.pg.obj s.csr.pgMax = true

/-- One step of the gain loop moves the gain toward the objective, never past it, and by at most one rounded step
(41_gain.md R133). Differences are exact, in units of 2^-149. -/
def Obligations.GainStepBounded : Prop :=
  ∀ (c : ConfigRegs) (obj g : Word), c.legalPg = true → F32.finitePos obj = true → F32.finitePos g = true →
    F32.finite (stepGain c obj g) = true ∧
    (F32.lt g obj = true →
      F32.value g ≤ F32.value (stepGain c obj g) ∧ F32.value (stepGain c obj g) ≤ F32.value obj ∧
      (F32.finite (F32.add g c.pgStep) = true →
        F32.value (stepGain c obj g) ≤ F32.value (F32.add g c.pgStep))) ∧
    (F32.lt obj g = true →
      F32.value (stepGain c obj g) ≤ F32.value g ∧ F32.value obj ≤ F32.value (stepGain c obj g) ∧
      F32.value (F32.sub g c.pgStep) ≤ F32.value (stepGain c obj g)) ∧
    (F32.lt g obj = false → F32.lt obj g = false → stepGain c obj g = g)

/-- EGAIN.PROC off the poison path gives the state and the outputs of the loop that rescans the window and recomputes the
gain at every sample (41_gain.md R136, R139), and changes nothing else. The bits of a NaN output are free (log 8, `Agrees`). -/
def Obligations.EgainProcResult : Prop :=
  ∀ (s : State) (pay : List Word), s.eg.Ok s.cfg → s.eg.Law → s.eg.poison = false →
    F32.finitePos s.csr.egObj = true → F32.finitePos s.csr.egFloor = true → pay.length % 2 = 0 →
    (∀ x ∈ pay, F32.finite x = true) → (∀ z ∈ complexSamples pay, F32.finite (magnitude z) = true) →
    let ref := envelopeReference s.csr
      { s.eg with gain := F32.div s.csr.egObj (F32.max2 s.eg.max s.csr.egFloor) } (complexSamples pay)
    ∃ (t : State) (outs : List Word), exec (.egainProc pay) s = .next t ∧
      t = { s with
        eg := ref.1, evq := s.evq ++ [0x02120000, BitVec.ofNat 32 pay.length] ++ outs, draws := t.draws } ∧
      outs.length = pay.length ∧
      ∀ j, j < pay.length / 2 →
        Agrees (outs.getD (2 * j) 0) (ref.2.getD j (0, 0)).1 ∧
        Agrees (outs.getD (2 * j + 1) 0) (ref.2.getD j (0, 0)).2

/-- The envelope law holds after every step if it held before: outside poison EG_MAX is the maximum of the window, whose
entries are finite and never negative (10_state.md R25, 41_gain.md R139). -/
def Obligations.EnvelopeLawKept : Prop :=
  ∀ s t : State, s.Inv → s.eg.Law → step s = .next t → t.eg.Law

/-! ## FIR filter bank -/

/-- FILT.LOAD loads exactly the legal coefficient vectors and rejects the others; history, phase and poison flag stay
(42_filter.md R160). -/
def Obligations.FiltLoadEffect : Prop :=
  ∀ (s : State) (b : Bool) (pay : List Word),
    let ok := 1 ≤ pay.length ∧ pay.length ≤ s.cfg.maxTaps ∧ (∀ h ∈ pay, F32.finite h = true) ∧
      (b = true → ∀ k, k < pay.length → F32.eq (pay.getD k 0) (pay.getD (pay.length - 1 - k) 0) = true)
    (ok → b = false → exec (.filtLoad b pay) s = .next { s with
      filt := { s.filt with
        fir := { s.filt.fir with
          coef := pay ++ s.filt.fir.coef.drop pay.length, taps := pay.length, valid := true } } }) ∧
    (ok → b = true → exec (.filtLoad b pay) s = .next { s with
      filt := { s.filt with
        hb := { s.filt.hb with
          coef := pay ++ s.filt.hb.coef.drop pay.length, taps := pay.length, valid := true } } }) ∧
    (¬ ok → exec (.filtLoad b pay) s =
      .next (s.takeError .operandRange (if b then 0x20000001 else 0x20000000)))

/-- FIR.APPLY with the scalar implementation, off the poison path: output n is the rounded convolution sum over the stored
history and the inputs, the history takes every input, the selection locks, and nothing else changes (42_filter.md R161,
R163, R168). The bits of a NaN output are free (log 8, `Agrees`). -/
def Obligations.FirApplyConvolves : Prop :=
  ∀ (s : State) (pay : List Word), s.filt.fir.Ok s.cfg → 1 ≤ s.cfg.maxTaps → s.filt.fir.valid = true →
    s.filt.fir.poison = false → s.filt.fi = 0 → (∀ x ∈ pay, F32.finite x = true) →
    ∃ (t : State) (outs : List Word), exec (.firApply pay) s = .next t ∧
      t = { s with
        filt := { s.filt with
          lk := true
          fir := { s.filt.fir with
            hist := (pay.reverse ++ s.filt.fir.hist).take (s.cfg.maxTaps - 1) } }
        evq := s.evq ++ [0x01210000, BitVec.ofNat 32 pay.length] ++ outs
        draws := t.draws } ∧
      outs.length = pay.length ∧
      ∀ n, n < pay.length → Agrees (outs.getD n 0) (s.filt.fir.convolution pay n)

/-- HB.DECIM with the scalar implementation, off the poison path: every input enters the history, the kept outputs are the
filtered values at every second index, and the phase carries over (42_filter.md R161, R164, R168). The bits of a NaN output
are free (log 8, `Agrees`). -/
def Obligations.HbDecimKeepsEverySecond : Prop :=
  ∀ (s : State) (pay : List Word), s.filt.hb.Ok s.cfg → 1 ≤ s.cfg.maxTaps → s.filt.hb.valid = true →
    s.filt.hb.poison = false → s.filt.hi = 0 → (∀ x ∈ pay, F32.finite x = true) →
    ∃ (t : State) (outs : List Word), exec (.hbDecim pay) s = .next t ∧
      t = { s with
        filt := { s.filt with
          lk := true
          hb := { s.filt.hb with
            hist := (pay.reverse ++ s.filt.hb.hist).take (s.cfg.maxTaps - 1) }
          phase := if pay.length % 2 = 1 then !s.filt.phase else s.filt.phase }
        evq := s.evq ++ [0x01220000, BitVec.ofNat 32 outs.length] ++ outs
        draws := t.draws } ∧
      outs.length = (pay.length + if s.filt.phase then 1 else 0) / 2 ∧
      ∀ m, m < outs.length →
        Agrees (outs.getD m 0) (s.filt.hb.convolution pay (2 * m + if s.filt.phase then 0 else 1))

/-- Every implementation id gives, off the poison path, as many outputs as the scalar one, each within 1e-5 of the scalar
output where that is finite, and the same history and phase; both complete (42_filter.md R167, R169). -/
def Obligations.FilterParity : Prop :=
  ∀ (s : State) (id : BitVec 3) (pay : List Word), (∀ x ∈ pay, F32.finite x = true) →
    (s.filt.fir.valid = true → s.filt.fir.poison = false →
      ∃ (t u : State) (scalar outs : List Word),
        exec (.firApply pay) { s with filt := { s.filt with fi := 0 } } = .next t ∧
        exec (.firApply pay) { s with filt := { s.filt with fi := id } } = .next u ∧
        t.evq = s.evq ++ [0x01210000, BitVec.ofNat 32 pay.length] ++ scalar ∧
        u.evq = s.evq ++ [0x01210000, BitVec.ofNat 32 pay.length] ++ outs ∧
        scalar.length = pay.length ∧ outs.length = pay.length ∧ u.filt = { t.filt with fi := id } ∧
        ∀ n, n < pay.length → F32.finite (scalar.getD n 0) = true →
          F32.finite (outs.getD n 0) = true ∧
          (F32.value (outs.getD n 0) - F32.value (scalar.getD n 0)).natAbs * 100000 ≤ 2 ^ 149) ∧
    (s.filt.hb.valid = true → s.filt.hb.poison = false →
      ∃ (t u : State) (scalar outs : List Word),
        exec (.hbDecim pay) { s with filt := { s.filt with hi := 0 } } = .next t ∧
        exec (.hbDecim pay) { s with filt := { s.filt with hi := id } } = .next u ∧
        t.evq = s.evq ++ [0x01220000, BitVec.ofNat 32 scalar.length] ++ scalar ∧
        u.evq = s.evq ++ [0x01220000, BitVec.ofNat 32 outs.length] ++ outs ∧
        outs.length = scalar.length ∧ u.filt = { t.filt with hi := id } ∧
        ∀ n, n < scalar.length → F32.finite (scalar.getD n 0) = true →
          F32.finite (outs.getD n 0) = true ∧
          (F32.value (outs.getD n 0) - F32.value (scalar.getD n 0)).natAbs * 100000 ≤ 2 ^ 149)

/-- The filter commands' other outcomes: a bank with no coefficients rejects; the poison path reports a cause once, sets the
flag and the lock, emits the normal number of outputs, keeps the history's length and advances the phase (42_filter.md
R162 to R164, R168). -/
def Obligations.FilterOtherPaths : Prop :=
  ∀ (s : State) (pay : List Word),
    let cause := pay.any fun x => !F32.finite x
    (s.filt.fir.valid = false → exec (.firApply pay) s = .next (s.takeError .notConfigured 0x21000000)) ∧
    (s.filt.hb.valid = false → exec (.hbDecim pay) s = .next (s.takeError .notConfigured 0x22000000)) ∧
    (let base := if cause then s.takeError .nonfinite 0x21000000 else s
     s.filt.fir.valid = true → (s.filt.fir.poison = true ∨ cause = true) →
     ∃ (t : State) (outs hist : List Word), exec (.firApply pay) s = .next t ∧
       outs.length = pay.length ∧ hist.length = s.filt.fir.hist.length ∧
       t = { base with
         filt := { s.filt with lk := true, fir := { s.filt.fir with hist := hist, poison := true } }
         evq := base.evq ++ [0x01210000, BitVec.ofNat 32 pay.length] ++ outs
         draws := t.draws }) ∧
    (let base := if cause then s.takeError .nonfinite 0x22000000 else s
     s.filt.hb.valid = true → (s.filt.hb.poison = true ∨ cause = true) →
     ∃ (t : State) (outs hist : List Word), exec (.hbDecim pay) s = .next t ∧
       outs.length = (pay.length + if s.filt.phase then 1 else 0) / 2 ∧
       hist.length = s.filt.hb.hist.length ∧
       t = { base with
         filt := { s.filt with
           lk := true, hb := { s.filt.hb with hist := hist, poison := true }
           phase := if pay.length % 2 = 1 then !s.filt.phase else s.filt.phase }
         evq := base.evq ++ [0x01220000, BitVec.ofNat 32 outs.length] ++ outs
         draws := t.draws })

/-- FILT.SELECT: refused when locked; an id that the build lacks becomes scalar with one report; the lock is set by LK
(42_filter.md R166). -/
def Obligations.FiltSelectEffect : Prop :=
  ∀ (s : State) (fi hi : BitVec 3) (lk : Bool),
    let h := (Instr.filtSelect fi hi lk []).header
    (s.filt.lk = true → exec (.filtSelect fi hi lk []) s = .next (s.takeError .implLocked h)) ∧
    (s.filt.lk = false → fi.toNat < s.cfg.numFilterImpls → hi.toNat < s.cfg.numFilterImpls →
      exec (.filtSelect fi hi lk []) s = .next { s with filt := { s.filt with fi := fi, hi := hi, lk := lk } }) ∧
    (s.filt.lk = false → (s.cfg.numFilterImpls ≤ fi.toNat ∨ s.cfg.numFilterImpls ≤ hi.toNat) →
      exec (.filtSelect fi hi lk []) s = .next { s.takeError .implFallback h with
        filt := { s.filt with
          fi := if fi.toNat < s.cfg.numFilterImpls then fi else 0
          hi := if hi.toNat < s.cfg.numFilterImpls then hi else 0
          lk := lk } })

/-- Selection immutability: what sets FILT_LK, that no command and no step but power-on clears it, and that the selection
does not change while it is set (42_filter.md R168). -/
def Obligations.SelectionImmutable : Prop :=
  (∀ (s t : State) (pay : List Word), exec (.firApply pay) s = .next t →
    t.filt.lk = (s.filt.lk || s.filt.fir.valid)) ∧
  (∀ (s t : State) (pay : List Word), exec (.hbDecim pay) s = .next t →
    t.filt.lk = (s.filt.lk || s.filt.hb.valid)) ∧
  (∀ (s t : State) (fi hi : BitVec 3) (lk : Bool), exec (.filtSelect fi hi lk []) s = .next t →
    t.filt.lk = (s.filt.lk || lk)) ∧
  (∀ (i : Instr) (s t : State), exec i s = .next t → s.filt.lk = true →
    t.filt.lk = true ∧ t.filt.fi = s.filt.fi ∧ t.filt.hi = s.filt.hi) ∧
  (∀ (s t : State), step s = .next t → s.filt.lk = true → (∀ rest, s.agenda ≠ .powerOn :: rest) →
    t.filt.lk = true ∧ t.filt.fi = s.filt.fi ∧ t.filt.hi = s.filt.hi) ∧
  (∀ (s : State) (rest : List Turn), s.agenda = .powerOn :: rest →
    ∃ t, step s = .next t ∧ t.filt.lk = false)

/-! ## Symbol delay line -/

/-- DL.INSERT: the new symbol takes the oldest one's slot, the pointer advances, the ejected dibit is emitted when E = 1;
in logical order the line shifts by one. With C = 1 the line ends the same (43_delay_line.md R190, R191). -/
def Obligations.DlInsertResult : Prop :=
  ∀ (s : State) (sym : Dibit) (e : Bool),
    exec (.dlInsert sym false e []) s = .next { s with
      dl := { buf := s.dl.buf.set s.dl.ptr sym, ptr := (s.dl.ptr + 1) % s.cfg.dlCapacity }
      evq := s.evq ++ if e then [0x0330#16 ++ 0#14 ++ s.dl.buf.getD s.dl.ptr 0, 0] else [] } ∧
    ∀ c : Bool, s.dl.Ok s.cfg → ∃ t, exec (.dlInsert sym c e []) s = .next t ∧
      t.dl = { buf := s.dl.buf.set s.dl.ptr sym, ptr := (s.dl.ptr + 1) % s.cfg.dlCapacity } ∧
      t.logical (s.cfg.dlCapacity - 1) = sym ∧
      ∀ j, j + 1 < s.cfg.dlCapacity → t.logical j = s.logical (j + 1)

/-- Ring law: after at least L inserts, with nothing between them that rewrites or moves the line (RESET_ALL has DL.RESET's
effect), DL.EXTRACT of the whole line returns the last L inserted symbols in order (43_delay_line.md R197). -/
def Obligations.RingLaw : Prop :=
  ∀ (s t : State) (is : List Instr), s.dl.Ok s.cfg → s.cfg.dlCapacity ≤ 4095 →
    (∀ i ∈ is, disturbsLine i = false) → execAll is s = .next t →
    let inserted := is.filterMap insertedSymbol
    s.cfg.dlCapacity ≤ inserted.length →
    exec (.dlExtract 0 (BitVec.ofNat 12 s.cfg.dlCapacity) []) t = .next { t with
      evq := t.evq ++
        [0x0433#16 ++ 0#4 ++ BitVec.ofNat 12 s.cfg.dlCapacity, BitVec.ofNat 32 ((s.cfg.dlCapacity + 15) / 16)] ++
        packDibits (inserted.drop (inserted.length - s.cfg.dlCapacity)) }

/-- DL.UPDATE overwrites the N most recent symbols in logical order and moves nothing, or rejects N > L; DL.ADJUST rotates
the logical view by one and leaves the buffer alone (43_delay_line.md R192, R193). -/
def Obligations.DlUpdateAndAdjust : Prop :=
  ∀ s : State, s.dl.Ok s.cfg →
    (∀ (n : BitVec 12) (pay : List Word), pay.length = (n.toNat + 15) / 16 → n.toNat ≤ s.cfg.dlCapacity →
      ∃ t, exec (.dlUpdate n pay) s = .next t ∧ t = { s with dl := t.dl } ∧ t.dl.ptr = s.dl.ptr ∧
        t.dl.buf.length = s.dl.buf.length ∧
        (∀ i, i < n.toNat → t.logical (s.cfg.dlCapacity - n.toNat + i) =
          (pay.getD (i / 16) 0).extractLsb' (30 - 2 * (i % 16)) 2) ∧
        ∀ j, j < s.cfg.dlCapacity - n.toNat → t.logical j = s.logical j) ∧
    (∀ (n : BitVec 12) (pay : List Word), pay.length = (n.toNat + 15) / 16 → s.cfg.dlCapacity < n.toNat →
      exec (.dlUpdate n pay) s = .next (s.takeError .operandRange (0x31000#20 ++ n))) ∧
    (∃ t, exec (.dlAdjust false []) s = .next t ∧
      t = { s with dl := { buf := s.dl.buf, ptr := (s.dl.ptr + 1) % s.cfg.dlCapacity } } ∧
      ∀ j, t.logical j = s.logical ((j + 1) % s.cfg.dlCapacity)) ∧
    (∃ t, exec (.dlAdjust true []) s = .next t ∧
      t = { s with dl := { buf := s.dl.buf, ptr := (s.dl.ptr + s.cfg.dlCapacity - 1) % s.cfg.dlCapacity } } ∧
      ∀ j, t.logical j = s.logical ((j + s.cfg.dlCapacity - 1) % s.cfg.dlCapacity))

/-- DL.EXTRACT emits the symbols START .. START+LEN-1 of the logical view, packed, with padding 0, and changes nothing else;
a range past L rejects (43_delay_line.md R194, 00_scope.md R10). -/
def Obligations.DlExtractReturnsSymbols : Prop :=
  ∀ (s : State) (start len : BitVec 12),
    (start.toNat + len.toNat ≤ s.cfg.dlCapacity →
      ∃ ws : List Word, exec (.dlExtract start len []) s = .next { s with
          evq := s.evq ++ [0x0433#16 ++ 0#4 ++ len, BitVec.ofNat 32 ((len.toNat + 15) / 16)] ++ ws } ∧
        ws.length = (len.toNat + 15) / 16 ∧
        ∀ i, i < 16 * ws.length →
          (ws.getD (i / 16) 0).extractLsb' (30 - 2 * (i % 16)) 2 =
            if i < len.toNat then s.logical (start.toNat + i) else 0) ∧
    (s.cfg.dlCapacity < start.toNat + len.toNat →
      exec (.dlExtract start len []) s = .next (s.takeError .operandRange (0x33#8 ++ len ++ start)))

/-- Pointer law: DL_PTR is below L at power-on and stays below L under every step (43_delay_line.md R196). -/
def Obligations.PointerLaw : Prop :=
  (∀ c : Config, 1 ≤ c.dlCapacity → (State.resetOf c).dl.ptr < c.dlCapacity) ∧
  ∀ s t : State, step s = .next t → s.dl.ptr < s.cfg.dlCapacity → t.dl.ptr < t.cfg.dlCapacity

/-! ## Frame correlator -/

/-- SYNC.LOAD: loads a slot whole, clears one, or rejects a slot or a length out of range (44_frame_correlator.md R210,
R211). -/
def Obligations.SyncLoadEffect : Prop :=
  ∀ (s : State) (k : BitVec 4) (ndib tol : BitVec 7) (pay : List Word),
    let lengthFits := 1 ≤ ndib.toNat ∧ ndib.toNat ≤ 64 ∧ ndib.toNat ≤ s.cfg.dlCapacity
    (∀ t, s.sync.tpl[k.toNat]? = some t → k.toNat < s.cfg.maxTemplates →
      exec (.syncLoad k ndib tol false []) s = .next { s with
        sync := { s.sync with tpl := s.sync.tpl.set k.toNat { t with v := false } } }) ∧
    (pay.length = (ndib.toNat + 15) / 16 → k.toNat < s.cfg.maxTemplates → lengthFits →
      exec (.syncLoad k ndib tol true pay) s = .next { s with
        sync := { s.sync with
          tpl := s.sync.tpl.set k.toNat {
            v := true, ndib := ndib.toNat, tol := tol.toNat
            pat := (List.range ndib.toNat).flatMap fun i =>
              let p := (pay.getD (i / 16) 0).extractLsb' (30 - 2 * (i % 16)) 2
              [p.getLsbD 1, p.getLsbD 0] } } }) ∧
    (pay.length = (ndib.toNat + 15) / 16 → (s.cfg.maxTemplates ≤ k.toNat ∨ ¬ lengthFits) →
      exec (.syncLoad k ndib tol true pay) s =
        .next (s.takeError .operandRange (0x40#8 ++ 0#5 ++ 1#1 ++ tol ++ ndib ++ k))) ∧
    (s.cfg.maxTemplates ≤ k.toNat →
      exec (.syncLoad k ndib tol false []) s =
        .next (s.takeError .operandRange (0x40#8 ++ 0#5 ++ 0#1 ++ tol ++ ndib ++ k)))

/-- A template's distance is the number of bits in which its pattern dibits differ from the window of the most recent
symbols, oldest dibit against p_0 (44_frame_correlator.md R212). -/
def Obligations.WindowDistance : Prop :=
  ∀ (s : State) (t : Template) (ps : List Dibit), t.ndib = ps.length → t.pat = expandDibits ps →
    s.distance t =
      ((List.range ps.length).map fun i =>
        dibitDistance (s.logical (s.cfg.dlCapacity - ps.length + i)) (ps.getD i 0)).sum

/-- DL.INSERT with C = 1 after the insert (state `u`): with a matching slot, the event, the flags, SYNC_LAST and the counter
of the match with the least distance and, among equals, the least slot; with none, the miss step, with SYNC_LOST exactly
when the miss raises the count to a nonzero threshold (43_delay_line.md R191, 44_frame_correlator.md R212 to R214). A miss at
the saturated count never fires: there R214's prose ("never again in that run. This holds even at SYNC_MISS = 2^32-1") is
followed against its pseudocode, which is the model's choice (log 25). -/
def Obligations.CorrelationResult : Prop :=
  ∀ (s u : State) (sym : Dibit) (e : Bool), exec (.dlInsert sym false e []) s = .next u →
    ((∃ k t, u.Matches k t) →
      ∃ k t, u.Matches k t ∧
        (∀ j r, u.Matches j r → u.distance t < u.distance r ∨ (u.distance t = u.distance r ∧ k ≤ j)) ∧
        exec (.dlInsert sym true e []) s = .next { u with
          evq := u.evq ++
            [0x0530#16 ++ 0#4 ++ BitVec.ofNat 8 (u.distance t) ++ BitVec.ofNat 4 k, 1, u.sync.miss]
          sync := { u.sync with
            miss := 0, inSync := true
            last := { valid := true, dist := BitVec.ofNat 8 (u.distance t), k := BitVec.ofNat 4 k } }
          cnt := { u.cnt with syncMatch := u.cnt.syncMatch + 1 } }) ∧
    ((¬ ∃ k t, u.Matches k t) →
      let miss := if u.sync.miss = 0xFFFFFFFF#32 then u.sync.miss else u.sync.miss + 1
      (u.csr.syncLossThr ≠ 0 → u.sync.miss ≠ 0xFFFFFFFF#32 → miss = u.csr.syncLossThr →
        exec (.dlInsert sym true e []) s = .next { u with
          evq := u.evq ++ [0x06300000, 1, miss]
          sync := { u.sync with miss := miss, inSync := false }
          cnt := { u.cnt with syncLost := u.cnt.syncLost + 1 } }) ∧
      (u.csr.syncLossThr = 0 ∨ u.sync.miss = 0xFFFFFFFF#32 ∨ miss ≠ u.csr.syncLossThr →
        exec (.dlInsert sym true e []) s = .next { u with sync := { u.sync with miss := miss } }))

/-- Sync threshold law: a correlation emits SYNC_MATCH if and only if some loaded template is within its tolerance; with one
loaded template, if and only if its distance is within its tolerance, and at one more it takes the miss step
(44_frame_correlator.md R216). The miss step is given whole, but for whether SYNC_LOST fires where a saturated count equals the
threshold (log 25; `CorrelationResult` says what the model does there). -/
def Obligations.SyncThreshold : Prop :=
  ∀ (s u t : State) (sym : Dibit) (e : Bool),
    exec (.dlInsert sym false e []) s = .next u → exec (.dlInsert sym true e []) s = .next t →
    let emitsMatch := ∃ (info : BitVec 16) (miss : Word), t.evq = u.evq ++ [0x0530#16 ++ info, 1, miss]
    let miss := if u.sync.miss = 0xFFFFFFFF#32 then u.sync.miss else u.sync.miss + 1
    let lost := u.csr.syncLossThr ≠ 0 ∧ miss = u.csr.syncLossThr
    let missStep := t.cnt.syncMatch = u.cnt.syncMatch ∧ t.sync.last = u.sync.last ∧ t.sync.miss = miss ∧
      (u.sync.miss ≠ 0xFFFFFFFF#32 ∨ u.csr.syncLossThr ≠ 0xFFFFFFFF#32 →
        t = { u with
          evq := u.evq ++ if lost then [0x06300000, 1, miss] else []
          sync := { u.sync with miss := miss, inSync := if lost then false else u.sync.inSync }
          cnt := { u.cnt with syncLost := if lost then u.cnt.syncLost + 1 else u.cnt.syncLost } })
    (emitsMatch ↔ ∃ k r, u.Matches k r) ∧
    ∀ (k : Nat) (r : Template), u.sync.tpl[k]? = some r → r.v = true →
      (∀ j q, u.sync.tpl[j]? = some q → q.v = true → j = k) →
      (emitsMatch ↔ u.distance r ≤ r.tol) ∧ (u.distance r = r.tol + 1 → missStep)

/-! ## Trellis decoder and CRC validator -/

/-- FEC.DEC12 and FEC.DEC34 decode to an admissible input sequence of least cost, with NEW its cost and total PRIOR + NEW,
emit its first S - F inputs, count the block and the corrections, and change nothing else (45_fec.md R230 to R235). -/
def Obligations.FecDecodeIsMaximumLikelihood : Prop :=
  ∀ (s : State) (prior : BitVec 16) (pay : List Word),
    let steps := s.cfg.trellisSteps
    let flush := s.cfg.trellisFlush
    let rs := receivedSymbols steps pay
    flush < steps → pay.length = (steps + 7) / 8 →
    (∃ (us : List Nat) (t : State), Admissible 4 steps flush us ∧
      (∀ vs, Admissible 4 steps flush vs → blockCost s.cfg.out12 rs us ≤ blockCost s.cfg.out12 rs vs) ∧
      exec (.fecDec12 prior pay) s = .next t ∧
      t = { s with
        evq := s.evq ++ [0x07500000, BitVec.ofNat 32 (2 + (2 * (steps - flush) + 31) / 32),
          BitVec.ofNat 32 (prior.toNat + blockCost s.cfg.out12 rs us),
          BitVec.ofNat 32 (blockCost s.cfg.out12 rs us)] ++
          packBits ((us.take (steps - flush)).flatMap (inputBits 2))
        cnt := { s.cnt with
          fecBlocks := s.cnt.fecBlocks + 1
          corrected := s.cnt.corrected + BitVec.ofNat 32 (blockCost s.cfg.out12 rs us) }
        draws := t.draws }) ∧
    (∃ (us : List Nat) (t : State), Admissible 8 steps flush us ∧
      (∀ vs, Admissible 8 steps flush vs → blockCost s.cfg.out34 rs us ≤ blockCost s.cfg.out34 rs vs) ∧
      exec (.fecDec34 prior pay) s = .next t ∧
      t = { s with
        evq := s.evq ++ [0x07510001, BitVec.ofNat 32 (2 + (3 * (steps - flush) + 31) / 32),
          BitVec.ofNat 32 (prior.toNat + blockCost s.cfg.out34 rs us),
          BitVec.ofNat 32 (blockCost s.cfg.out34 rs us)] ++
          packBits ((us.take (steps - flush)).flatMap (inputBits 3))
        cnt := { s.cnt with
          fecBlocks := s.cnt.fecBlocks + 1
          corrected := s.cnt.corrected + BitVec.ofNat 32 (blockCost s.cfg.out34 rs us) }
        draws := t.draws })

/-- FEC round trip: decoding the coded block of an admissible input with PRIOR = 0 returns exactly its bits, with NEW and
total 0 (45_fec.md R237). -/
def Obligations.FecRoundTrip : Prop :=
  ∀ (s : State) (us : List Nat), s.cfg.legal = true →
    let steps := s.cfg.trellisSteps
    let flush := s.cfg.trellisFlush
    (Admissible 4 steps flush us →
      ∃ t, exec (.fecDec12 0 (codedBlock s.cfg.out12 us)) s = .next t ∧
        t.evq = s.evq ++ [0x07500000, BitVec.ofNat 32 (2 + (2 * (steps - flush) + 31) / 32), 0, 0] ++
          packBits ((us.take (steps - flush)).flatMap (inputBits 2))) ∧
    (Admissible 8 steps flush us →
      ∃ t, exec (.fecDec34 0 (codedBlock s.cfg.out34 us)) s = .next t ∧
        t.evq = s.evq ++ [0x07510001, BitVec.ofNat 32 (2 + (3 * (steps - flush) + 31) / 32), 0, 0] ++
          packBits ((us.take (steps - flush)).flatMap (inputBits 3)))

/-- Carry-forward: for the same received dibits the total with PRIOR = p is p plus the total with PRIOR = 0, exactly, and
the decoded bits are the same (45_fec.md R238). That the bits are the same word for word is the model's choice (log 6): the two
runs start from one state and so make the same draws, while R238 says only that the bits range over the same set. -/
def Obligations.FecCarryForward : Prop :=
  ∀ (s : State) (prior : BitVec 16) (pay : List Word), s.cfg.legal = true →
    pay.length = (s.cfg.trellisSteps + 7) / 8 →
    (∃ (t u : State) (q total total0 new : Word) (bits : List Word),
      exec (.fecDec12 prior pay) s = .next t ∧ exec (.fecDec12 0 pay) s = .next u ∧
      t.evq = s.evq ++ [0x07500000, q, total, new] ++ bits ∧ u.evq = s.evq ++ [0x07500000, q, total0, new] ++ bits ∧
      total.toNat = prior.toNat + total0.toNat) ∧
    (∃ (t u : State) (q total total0 new : Word) (bits : List Word),
      exec (.fecDec34 prior pay) s = .next t ∧ exec (.fecDec34 0 pay) s = .next u ∧
      t.evq = s.evq ++ [0x07510001, q, total, new] ++ bits ∧ u.evq = s.evq ++ [0x07510001, q, total0, new] ++ bits ∧
      total.toNat = prior.toNat + total0.toNat)

/-- CRC.HDR: consistent, corrected at the one position that explains the syndrome, or invalid and unchanged; the event and
the three counters, and nothing else (45_fec.md R240, R241, R244). -/
def Obligations.CrcHdrVerdict : Prop :=
  ∀ (s : State) (m : Header),
    let z := syndrome s.cfg m
    let explains := fun p => p < 96 ∧ singleSyndrome s.cfg p = z
    (z = 0 → exec (.crcHdr (headerWords m)) s = .next { s with
      evq := s.evq ++ [0x08520001, 3] ++ headerWords m, cnt := { s.cnt with crcOk := s.cnt.crcOk + 1 } }) ∧
    (∀ p, z ≠ 0 → explains p → (∀ q, explains q → q = p) →
      exec (.crcHdr (headerWords m)) s = .next { s with
        evq := s.evq ++ [0x0852#16 ++ 0#1 ++ BitVec.ofNat 7 p ++ 0x03#8, 3] ++ headerWords (flipBit m p)
        cnt := { s.cnt with crcOk := s.cnt.crcOk + 1, corrected := s.cnt.corrected + 1 } }) ∧
    (z ≠ 0 → (¬ ∃ p, explains p ∧ ∀ q, explains q → q = p) →
      exec (.crcHdr (headerWords m)) s = .next { s with
        evq := s.evq ++ [0x08520000, 3] ++ headerWords m, cnt := { s.cnt with crcFail := s.cnt.crcFail + 1 } })

/-- Single-error correction: where the 96 syndromes are distinct and nonzero, as REFCFG's are, a consistent header with any
one bit flipped is returned corrected, and itself unchanged (45_fec.md R245). -/
def Obligations.CrcCorrectsSingleBit : Prop :=
  (((List.range 96).map (singleSyndrome Config.refcfg)).Nodup ∧
    ∀ p, p < 96 → singleSyndrome Config.refcfg p ≠ 0) ∧
  ∀ (s : State) (m : Header) (p : Nat),
    ((List.range 96).map (singleSyndrome s.cfg)).Nodup → (∀ q, q < 96 → singleSyndrome s.cfg q ≠ 0) →
    syndrome s.cfg m = 0 → p < 96 →
    (∃ t, exec (.crcHdr (headerWords (flipBit m p))) s = .next t ∧
      t.evq = s.evq ++ [0x0852#16 ++ 0#1 ++ BitVec.ofNat 7 p ++ 0x03#8, 3] ++ headerWords m) ∧
    (∃ t, exec (.crcHdr (headerWords m)) s = .next t ∧ t.evq = s.evq ++ [0x08520001, 3] ++ headerWords m)

/-- With REFCFG's CRC parameters no two-bit error is miscorrected: a consistent header with any two bits flipped is found
invalid and returned as it came (45_fec.md R241, R244). -/
def Obligations.DoubleErrorsNeverMiscorrected : Prop :=
  ∀ (s : State) (m : Header) (p q : Nat), s.cfg.crcPoly = 0x1021 → s.cfg.crcInit = 0 → s.cfg.crcXorout = 0xFFFF →
    syndrome s.cfg m = 0 → p < q → q < 96 →
    exec (.crcHdr (headerWords (flipBit (flipBit m p) q))) s = .next { s with
      evq := s.evq ++ [0x08520000, 3] ++ headerWords (flipBit (flipBit m p) q)
      cnt := { s.cnt with crcFail := s.cnt.crcFail + 1 } }

/-! ## Packet sequencer -/

/-- PS.START from any state: the report when a sequence is unfinished, the new sequence, and the PACKET of a header that
declares no blocks; PS.QUERY: its event (46_packet_sequencer.md R261, R263, R265 to R267). -/
def Obligations.PsStartAndQuery : Prop :=
  ∀ (s : State) (herr : BitVec 8) (m : Header),
    let h : Word := 0x60#8 ++ 0#16 ++ herr
    let base :=
      if s.ps.state = .headerReceived ∨ s.ps.state = .accumulating then s.takeError .psAbandoned h else s
    let btf := (m >>> 40).toNat % 128
    (btf ≠ 0 → exec (.psStart herr (headerWords m)) s = .next { base with
      ps := { state := .headerReceived, hdr := m, herr := herr, decl := btf, recv := 0, blk := [] } }) ∧
    (btf = 0 → exec (.psStart herr (headerWords m)) s = .next { base with
      ps := { state := .complete, hdr := m, herr := herr, decl := 0, recv := 0, blk := [] }
      evq := base.evq ++ [0x09600000, 5] ++ headerWords m ++ [0#24 ++ herr, 96]
      cnt := { base.cnt with packets := base.cnt.packets + 1 } }) ∧
    exec (.psQuery []) s = .next { s with
      evq := s.evq ++
        [0x0A62#16 ++ BitVec.ofNat 7 s.ps.recv ++ BitVec.ofNat 7 s.ps.decl ++
          (match s.ps.state with
            | .idle => 0#2 | .headerReceived => 1#2 | .accumulating => 2#2 | .complete => 3#2), 2,
         BitVec.ofNat 32 (s.ps.herr.toNat + (s.ps.blk.map fun b => b.err.toNat).sum),
         BitVec.ofNat 32
          (if s.ps.state = .idle then 0 else 96 + (s.ps.blk.map fun b => 8 * b.oct.toNat).sum)] }

/-- PS.ADD: rejected with no header or past the declared count; otherwise the block is appended, and the block that completes
the sequence delivers the PACKET (46_packet_sequencer.md R262, R265 to R267). -/
def Obligations.PsAddResult : Prop :=
  ∀ (s : State) (err oct : BitVec 8) (pay : List Word), pay.length = (oct.toNat + 3) / 4 →
    let h : Word := 0x61#8 ++ 0#8 ++ oct ++ err
    let blk := s.ps.blk ++ [{
      err := err, oct := oct
      data := (List.range oct.toNat).map fun j => (pay.getD (j / 4) 0).extractLsb' (24 - 8 * (j % 4)) 8 }]
    (s.ps.state = .idle → exec (.psAdd err oct pay) s = .next (s.takeError .psNoHeader h)) ∧
    (s.ps.state = .complete → exec (.psAdd err oct pay) s = .next (s.takeError .psOverflow h)) ∧
    ((s.ps.state = .headerReceived ∨ s.ps.state = .accumulating) → s.ps.recv + 1 ≠ s.ps.decl →
      exec (.psAdd err oct pay) s = .next { s with
        ps := { s.ps with state := .accumulating, recv := s.ps.recv + 1, blk := blk } }) ∧
    ((s.ps.state = .headerReceived ∨ s.ps.state = .accumulating) → s.ps.recv + 1 = s.ps.decl →
      ∃ payload : List Word,
        payload = headerWords s.ps.hdr ++
          [BitVec.ofNat 32 (s.ps.herr.toNat + (blk.map fun b => b.err.toNat).sum),
           BitVec.ofNat 32 (96 + (blk.map fun b => 8 * b.oct.toNat).sum)] ++
          blk.flatMap (fun b => (0#16 ++ b.oct ++ b.err) :: packOctets b.data) ∧
        exec (.psAdd err oct pay) s = .next { s with
          ps := { s.ps with state := .complete, recv := s.ps.recv + 1, blk := blk }
          evq := s.evq ++ [0x0961#16 ++ BitVec.ofNat 16 s.ps.decl, BitVec.ofNat 32 payload.length] ++ payload
          cnt := { s.cnt with packets := s.cnt.packets + 1 } })

/-- Completeness law: after a PS.START of a header that declares three blocks the sequence is complete after exactly three
accepted blocks, with one PACKET, and a fourth is rejected with PS_OVERFLOW (46_packet_sequencer.md R268). -/
def Obligations.PacketCompleteness : Prop :=
  ∀ (s s0 s1 s2 s3 s4 : State) (herr e1 o1 e2 o2 e3 o3 e4 o4 : BitVec 8) (m : Header) (p1 p2 p3 p4 : List Word),
    (m >>> 40).toNat % 128 = 3 → exec (.psStart herr (headerWords m)) s = .next s0 →
    p1.length = (o1.toNat + 3) / 4 → exec (.psAdd e1 o1 p1) s0 = .next s1 →
    p2.length = (o2.toNat + 3) / 4 → exec (.psAdd e2 o2 p2) s1 = .next s2 →
    p3.length = (o3.toNat + 3) / 4 → exec (.psAdd e3 o3 p3) s2 = .next s3 →
    p4.length = (o4.toNat + 3) / 4 → exec (.psAdd e4 o4 p4) s3 = .next s4 →
    s0.ps.state ≠ .complete ∧ s1.ps.state ≠ .complete ∧ s2.ps.state ≠ .complete ∧ s3.ps.state = .complete ∧
    s0.cnt.packets = s.cnt.packets ∧ s1.evq = s0.evq ∧ s2.evq = s0.evq ∧ s2.cnt.packets = s.cnt.packets ∧
    s3.cnt.packets = s.cnt.packets + 1 ∧ (∃ words, s3.evq = s0.evq ++ 0x09610003 :: words) ∧
    s4 = s3.takeError .psOverflow (0x61#8 ++ 0#8 ++ o4 ++ e4) ∧ s4.ps = s3.ps

/-- Bound law: PS_RECV <= PS_DECL <= 127 and the stored block count equals PS_RECV, at power-on and after every step from a
state where it holds (46_packet_sequencer.md R269). `Sequencer.Ok` joins to it what PS_STATE says of the counts (R260), which
makes the law inductive. -/
def Obligations.SequencerBound : Prop :=
  (∀ q : Sequencer, q.Ok → q.recv ≤ q.decl ∧ q.decl ≤ 127 ∧ q.blk.length = q.recv) ∧
  (∀ c : Config, (State.resetOf c).ps.Ok) ∧
  ∀ s t : State, s.ps.Ok → step s = .next t → t.ps.Ok

/-! ## The host -/

/-- CSR access errors: an access of another width or alignment, an unmapped offset, and a pop of an empty event queue read
0, write nothing and set ERR_STICKY[13] only (60_exceptions.md R286). -/
def Obligations.CsrAccessErrors : Prop :=
  ∀ (s : State) (bytes : Nat) (off : BitVec 12) (v : Word) (rest : List Turn),
    let errs := { s.errs with sticky := s.errs.sticky ||| 0x2000#32 }
    (bytes ≠ 4 ∨ off.toNat % 4 ≠ 0 ∨ off.toNat ∉ mappedOffsets →
      step { s with agenda := .host (.read bytes off) :: rest } =
        .next { s with agenda := rest, hostReads := s.hostReads ++ [0], errs := errs } ∧
      step { s with agenda := .host (.write bytes off v) :: rest } =
        .next { s with agenda := rest, errs := errs }) ∧
    (s.evq = [] →
      step (s.reading 0x02C rest) = .next { s with agenda := rest, hostReads := s.hostReads ++ [0], errs := errs })

/-- Host writes: each read-write register stores, IRQ_EN two bits, EG_WINDOW only a legal length, ERR_STICKY clears the ones
written, a push appends while there is room, and every read-only register ignores the write (10_state.md R31, R34, R35,
R38, R39, R41, R42, R46, R48). -/
def Obligations.HostWrites : Prop :=
  ∀ (s : State) (v : Word) (rest : List Turn),
    step (s.writing 0x00C v rest) = .next { s with agenda := rest, irqEn := v.extractLsb' 0 2 } ∧
    step (s.writing 0x010 v rest) = .next { s with
      agenda := rest, errs := { s.errs with sticky := s.errs.sticky &&& ~~~v } } ∧
    (s.cmdq.length < s.cfg.cmdqDepth →
      step (s.writing 0x024 v rest) = .next { s with agenda := rest, cmdq := s.cmdq ++ [v] }) ∧
    step (s.writing 0x040 v rest) = .next { s with agenda := rest, csr := { s.csr with pgTarget := v } } ∧
    step (s.writing 0x044 v rest) = .next { s with agenda := rest, csr := { s.csr with pgMin := v } } ∧
    step (s.writing 0x048 v rest) = .next { s with agenda := rest, csr := { s.csr with pgMax := v } } ∧
    step (s.writing 0x04C v rest) = .next { s with agenda := rest, csr := { s.csr with pgCeil := v } } ∧
    step (s.writing 0x050 v rest) = .next { s with agenda := rest, csr := { s.csr with pgStep := v } } ∧
    step (s.writing 0x054 v rest) = .next { s with agenda := rest, csr := { s.csr with pgDecay := v } } ∧
    step (s.writing 0x058 v rest) = .next { s with agenda := rest, csr := { s.csr with pgInit := v } } ∧
    step (s.writing 0x060 v rest) = .next { s with agenda := rest, csr := { s.csr with egObj := v } } ∧
    step (s.writing 0x064 v rest) = .next { s with agenda := rest, csr := { s.csr with egFloor := v } } ∧
    (let w := v.toNat % 2 ^ 16
     step (s.writing 0x068 v rest) = .next { s with
      agenda := rest
      csr := { s.csr with
        egWindow := if 1 ≤ w ∧ w ≤ s.cfg.maxEnvWindow then BitVec.ofNat 16 w else s.csr.egWindow } }) ∧
    step (s.writing 0x0B4 v rest) = .next { s with agenda := rest, csr := { s.csr with syncLossThr := v } } ∧
    ∀ off : BitVec 12, off.toNat ∈ mappedOffsets →
      off.toNat ∉ [0x00C, 0x010, 0x024, 0x040, 0x044, 0x048, 0x04C, 0x050, 0x054, 0x058, 0x060, 0x064, 0x068, 0x0B4] →
      step (s.writing off v rest) = .next { s with agenda := rest }

/-- A push while CMDQ is full is held: the engine receives a word first, then the pushed word is stored after the words
already there. No word is dropped (10_state.md R38, 20_memory.md R72). That the engine moves while the push is held is the
model's choice of turns (log 4). -/
def Obligations.HeldPushWaits : Prop :=
  ∀ (s : State) (w v : Word) (ws : List Word) (rest : List Turn),
    s.ca.isComplete = false → s.cmdq = w :: ws → ws.length + 1 = s.cfg.cmdqDepth →
    Host.Core.run Sys2Proof.core 2 (s.writing 0x024 v rest) =
      .next { s with agenda := rest, cmdq := ws ++ [v], ca := s.ca.take s.cfg.maxPayloadWords w }

/-- Pops return the event words oldest first and remove them; nothing else changes (10_state.md R39, 20_memory.md R71). -/
def Obligations.PopsDeliverEventsInOrder : Prop :=
  ∀ (s : State) (ws more : List Word) (rest : List Turn), s.evq = ws ++ more →
    s.agenda = List.replicate ws.length (.host (.read 4 0x02C)) ++ rest →
    Host.Core.run Sys2Proof.core ws.length s =
      .next { s with agenda := rest, evq := more, hostReads := s.hostReads ++ ws }

/-- In every state a read of a register other than STATUS (`StatusAndIrq`) and EVQ_POP (`PopsDeliverEventsInOrder`) returns
its word by the CSR map and changes nothing, and reads of every register but EVQ_POP are idempotent (10_state.md R31, R36 to
R47, 20_memory.md R75). A queue count that 32 bits hold reads as itself; a larger one is a free value (log 26). That a poisoned
unit's registers read the same word twice is the model's choice (log 9): R43 makes them draws, R75 repeatable. -/
def Obligations.ReadsAreIdempotent : Prop :=
  (∀ (s : State) (rest : List Turn) (p : BitVec 12 × Word), p ∈ registerWords s →
    step (s.reading p.1 rest) = .next { s with agenda := rest, hostReads := s.hostReads ++ [p.2] }) ∧
  (∀ (s : State) (off : BitVec 12), off.toNat ∈ mappedOffsets → off ≠ 0x008 → off ≠ 0x02C →
    ∃ v, (off, v) ∈ registerWords s) ∧
  (∀ (off : BitVec 12) (n : Nat), n < 2 ^ 32 → (countWord off n).toNat = n) ∧
  ∀ (s : State) (off : BitVec 12) (rest : List Turn), off.toNat ∈ mappedOffsets → off ≠ 0x02C →
    s.agenda = .host (.read 4 off) :: .host (.read 4 off) :: rest →
    ∃ v, Host.Core.run Sys2Proof.core 2 s = .next { s with agenda := rest, hostReads := s.hostReads ++ [v, v] }

/-- STATUS reads every field from the state at the time of the read, the IRQ level among them; HOLD is set exactly when the
engine's next step would leave the block as it is for want of event space (10_state.md R33, 60_exceptions.md R290). -/
def Obligations.StatusAndIrq : Prop :=
  ∀ (s : State) (rest : List Turn), ∃ w : Word,
    step (s.reading 0x008 rest) = .next { s with agenda := rest, hostReads := s.hostReads ++ [w] } ∧
    w.getLsbD 0 = !s.evq.isEmpty ∧ w.getLsbD 1 = { s with agenda := rest }.hold ∧ w.getLsbD 2 = s.sync.inSync ∧
    w.getLsbD 3 = s.filt.lk ∧ w.getLsbD 4 = s.filt.fir.valid ∧ w.getLsbD 5 = s.filt.hb.valid ∧
    w.extractLsb' 6 2 =
      (match s.ps.state with
        | .idle => 0#2 | .headerReceived => 1#2 | .accumulating => 2#2 | .complete => 3#2) ∧
    w.getLsbD 8 =
      ((s.irqEn.getLsbD 0 && !s.evq.isEmpty) || (s.irqEn.getLsbD 1 && s.errs.sticky != 0)) ∧
    w.getLsbD 9 = s.pg.poison ∧ w.getLsbD 10 = s.eg.poison ∧ w.getLsbD 11 = s.filt.fir.poison ∧
    w.getLsbD 12 = s.filt.hb.poison ∧
    w.getLsbD 13 = (s.ca != .empty && !s.ca.isComplete) ∧ w.extractLsb' 14 18 = 0

/-- Power-on reset: every register reads its power-on value, every hidden memory holds its value, the engine is idle, and the
reset input gives this state whatever came before (70_reset_and_hazards.md R310, 10_state.md R31). COEF and the contents of
an empty template slot, which R310 leaves unspecified and unread, are not named here (log 11); what CMDQ_FREE reads for a
depth of 2^32 or more is free (log 26). -/
def Obligations.PowerOnValues : Prop :=
  (∀ (c : Config) (p : BitVec 12 × Word) (rest : List Turn), p ∈ powerOnWords c →
    step ((State.resetOf c).reading p.1 rest) =
      .next { State.resetOf c with agenda := rest, hostReads := [p.2] }) ∧
  (∀ c : Config,
    let s := State.resetOf c
    s.pg = { gain := c.pgInitRst, peak := 0, obj := c.pgInitRst, poison := false } ∧
    s.eg = {
      win := List.replicate c.maxEnvWindow 0, wptr := 0, max := 0
      gain := F32.div c.egObjRst c.egFloorRst, w := c.egWindowRst.toNat, poison := false } ∧
    (∀ b ∈ [s.filt.fir, s.filt.hb],
      b.taps = 0 ∧ b.valid = false ∧ b.hist = List.replicate (c.maxTaps - 1) 0 ∧ b.poison = false) ∧
    s.filt.phase = false ∧ s.filt.fi = 0 ∧ s.filt.hi = 0 ∧ s.filt.lk = false ∧
    s.dl = { buf := List.replicate c.dlCapacity 0, ptr := 0 } ∧
    s.sync.tpl.length = c.maxTemplates ∧ (∀ t ∈ s.sync.tpl, t.v = false) ∧ s.sync.miss = 0 ∧
    s.sync.inSync = false ∧ s.sync.last = { valid := false, dist := 0, k := 0 } ∧
    s.ps = { state := .idle, hdr := 0, herr := 0, decl := 0, recv := 0, blk := [] } ∧
    s.cmdq = [] ∧ s.evq = [] ∧ s.ca = .empty ∧ s.irqLine = false ∧ step s = .next s) ∧
  ∀ (s : State) (rest : List Turn), s.agenda = .powerOn :: rest →
    step s = .next { State.resetOf s.cfg with draws := s.draws, agenda := rest, hostReads := s.hostReads }
end

