-- ==== Sys2Proof/Laws/Operands.lean ====
section
/-! SUPPORT. Lengths of the payload formats. -/

namespace Sys2Proof.Machine

@[simp] theorem unpackBits_length (n : Nat) (ws : List Word) : (unpackBits n ws).length = n := by simp [unpackBits]

@[simp] theorem unpackDibits_length (n : Nat) (ws : List Word) : (unpackDibits n ws).length = n := by simp [unpackDibits]

@[simp] theorem unpackOctets_length (n : Nat) (ws : List Word) : (unpackOctets n ws).length = n := by simp [unpackOctets]

@[simp] theorem packBits_length (m : Message) : (packBits m).length = ceilDiv m.length 32 := by simp [packBits]

@[simp] theorem packOctets_length (os : List Octet) : (packOctets os).length = ceilDiv os.length 4 := by simp [packOctets]

@[simp] theorem expandDibits_length (ds : List Dibit) : (expandDibits ds).length = 2 * ds.length := by
  induction ds with
  | nil => rfl
  | cons d ds ih => simp_all [expandDibits, expandDibit]; omega

@[simp] theorem complexWords_length (zs : List (Word × Word)) : (complexWords zs).length = 2 * zs.length := by
  induction zs with
  | nil => rfl
  | cons z zs ih => simp_all [complexWords]; omega

@[simp] theorem headerWords_length (m : Header) : (headerWords m).length = 3 := rfl

end Sys2Proof.Machine
end

