-- ==== Sys2Proof/Laws/State.lean ====
section
/-! SUPPORT. What each field of the state is after each named update: one lemma per field per update. -/

namespace Sys2Proof.Machine.State

variable (s : State)

/-! ### setPg -/

@[simp] theorem setPg_cfg (v : PeakGain) : (s.setPg v).cfg = s.cfg := rfl
@[simp] theorem setPg_csr (v : PeakGain) : (s.setPg v).csr = s.csr := rfl
@[simp] theorem setPg_irqEn (v : PeakGain) : (s.setPg v).irqEn = s.irqEn := rfl
@[simp] theorem setPg_errs (v : PeakGain) : (s.setPg v).errs = s.errs := rfl
@[simp] theorem setPg_cnt (v : PeakGain) : (s.setPg v).cnt = s.cnt := rfl
@[simp] theorem setPg_pg (v : PeakGain) : (s.setPg v).pg = v := rfl
@[simp] theorem setPg_eg (v : PeakGain) : (s.setPg v).eg = s.eg := rfl
@[simp] theorem setPg_filt (v : PeakGain) : (s.setPg v).filt = s.filt := rfl
@[simp] theorem setPg_dl (v : PeakGain) : (s.setPg v).dl = s.dl := rfl
@[simp] theorem setPg_sync (v : PeakGain) : (s.setPg v).sync = s.sync := rfl
@[simp] theorem setPg_ps (v : PeakGain) : (s.setPg v).ps = s.ps := rfl
@[simp] theorem setPg_cmdq (v : PeakGain) : (s.setPg v).cmdq = s.cmdq := rfl
@[simp] theorem setPg_evq (v : PeakGain) : (s.setPg v).evq = s.evq := rfl
@[simp] theorem setPg_ca (v : PeakGain) : (s.setPg v).ca = s.ca := rfl
@[simp] theorem setPg_draws (v : PeakGain) : (s.setPg v).draws = s.draws := rfl
@[simp] theorem setPg_agenda (v : PeakGain) : (s.setPg v).agenda = s.agenda := rfl
@[simp] theorem setPg_hostReads (v : PeakGain) : (s.setPg v).hostReads = s.hostReads := rfl

/-! ### setEg -/

@[simp] theorem setEg_cfg (v : Envelope) : (s.setEg v).cfg = s.cfg := rfl
@[simp] theorem setEg_csr (v : Envelope) : (s.setEg v).csr = s.csr := rfl
@[simp] theorem setEg_irqEn (v : Envelope) : (s.setEg v).irqEn = s.irqEn := rfl
@[simp] theorem setEg_errs (v : Envelope) : (s.setEg v).errs = s.errs := rfl
@[simp] theorem setEg_cnt (v : Envelope) : (s.setEg v).cnt = s.cnt := rfl
@[simp] theorem setEg_pg (v : Envelope) : (s.setEg v).pg = s.pg := rfl
@[simp] theorem setEg_eg (v : Envelope) : (s.setEg v).eg = v := rfl
@[simp] theorem setEg_filt (v : Envelope) : (s.setEg v).filt = s.filt := rfl
@[simp] theorem setEg_dl (v : Envelope) : (s.setEg v).dl = s.dl := rfl
@[simp] theorem setEg_sync (v : Envelope) : (s.setEg v).sync = s.sync := rfl
@[simp] theorem setEg_ps (v : Envelope) : (s.setEg v).ps = s.ps := rfl
@[simp] theorem setEg_cmdq (v : Envelope) : (s.setEg v).cmdq = s.cmdq := rfl
@[simp] theorem setEg_evq (v : Envelope) : (s.setEg v).evq = s.evq := rfl
@[simp] theorem setEg_ca (v : Envelope) : (s.setEg v).ca = s.ca := rfl
@[simp] theorem setEg_draws (v : Envelope) : (s.setEg v).draws = s.draws := rfl
@[simp] theorem setEg_agenda (v : Envelope) : (s.setEg v).agenda = s.agenda := rfl
@[simp] theorem setEg_hostReads (v : Envelope) : (s.setEg v).hostReads = s.hostReads := rfl

/-! ### setFilt -/

@[simp] theorem setFilt_cfg (v : Filters) : (s.setFilt v).cfg = s.cfg := rfl
@[simp] theorem setFilt_csr (v : Filters) : (s.setFilt v).csr = s.csr := rfl
@[simp] theorem setFilt_irqEn (v : Filters) : (s.setFilt v).irqEn = s.irqEn := rfl
@[simp] theorem setFilt_errs (v : Filters) : (s.setFilt v).errs = s.errs := rfl
@[simp] theorem setFilt_cnt (v : Filters) : (s.setFilt v).cnt = s.cnt := rfl
@[simp] theorem setFilt_pg (v : Filters) : (s.setFilt v).pg = s.pg := rfl
@[simp] theorem setFilt_eg (v : Filters) : (s.setFilt v).eg = s.eg := rfl
@[simp] theorem setFilt_filt (v : Filters) : (s.setFilt v).filt = v := rfl
@[simp] theorem setFilt_dl (v : Filters) : (s.setFilt v).dl = s.dl := rfl
@[simp] theorem setFilt_sync (v : Filters) : (s.setFilt v).sync = s.sync := rfl
@[simp] theorem setFilt_ps (v : Filters) : (s.setFilt v).ps = s.ps := rfl
@[simp] theorem setFilt_cmdq (v : Filters) : (s.setFilt v).cmdq = s.cmdq := rfl
@[simp] theorem setFilt_evq (v : Filters) : (s.setFilt v).evq = s.evq := rfl
@[simp] theorem setFilt_ca (v : Filters) : (s.setFilt v).ca = s.ca := rfl
@[simp] theorem setFilt_draws (v : Filters) : (s.setFilt v).draws = s.draws := rfl
@[simp] theorem setFilt_agenda (v : Filters) : (s.setFilt v).agenda = s.agenda := rfl
@[simp] theorem setFilt_hostReads (v : Filters) : (s.setFilt v).hostReads = s.hostReads := rfl

/-! ### setDl -/

@[simp] theorem setDl_cfg (v : DelayLine) : (s.setDl v).cfg = s.cfg := rfl
@[simp] theorem setDl_csr (v : DelayLine) : (s.setDl v).csr = s.csr := rfl
@[simp] theorem setDl_irqEn (v : DelayLine) : (s.setDl v).irqEn = s.irqEn := rfl
@[simp] theorem setDl_errs (v : DelayLine) : (s.setDl v).errs = s.errs := rfl
@[simp] theorem setDl_cnt (v : DelayLine) : (s.setDl v).cnt = s.cnt := rfl
@[simp] theorem setDl_pg (v : DelayLine) : (s.setDl v).pg = s.pg := rfl
@[simp] theorem setDl_eg (v : DelayLine) : (s.setDl v).eg = s.eg := rfl
@[simp] theorem setDl_filt (v : DelayLine) : (s.setDl v).filt = s.filt := rfl
@[simp] theorem setDl_dl (v : DelayLine) : (s.setDl v).dl = v := rfl
@[simp] theorem setDl_sync (v : DelayLine) : (s.setDl v).sync = s.sync := rfl
@[simp] theorem setDl_ps (v : DelayLine) : (s.setDl v).ps = s.ps := rfl
@[simp] theorem setDl_cmdq (v : DelayLine) : (s.setDl v).cmdq = s.cmdq := rfl
@[simp] theorem setDl_evq (v : DelayLine) : (s.setDl v).evq = s.evq := rfl
@[simp] theorem setDl_ca (v : DelayLine) : (s.setDl v).ca = s.ca := rfl
@[simp] theorem setDl_draws (v : DelayLine) : (s.setDl v).draws = s.draws := rfl
@[simp] theorem setDl_agenda (v : DelayLine) : (s.setDl v).agenda = s.agenda := rfl
@[simp] theorem setDl_hostReads (v : DelayLine) : (s.setDl v).hostReads = s.hostReads := rfl

/-! ### setSync -/

@[simp] theorem setSync_cfg (v : Correlator) : (s.setSync v).cfg = s.cfg := rfl
@[simp] theorem setSync_csr (v : Correlator) : (s.setSync v).csr = s.csr := rfl
@[simp] theorem setSync_irqEn (v : Correlator) : (s.setSync v).irqEn = s.irqEn := rfl
@[simp] theorem setSync_errs (v : Correlator) : (s.setSync v).errs = s.errs := rfl
@[simp] theorem setSync_cnt (v : Correlator) : (s.setSync v).cnt = s.cnt := rfl
@[simp] theorem setSync_pg (v : Correlator) : (s.setSync v).pg = s.pg := rfl
@[simp] theorem setSync_eg (v : Correlator) : (s.setSync v).eg = s.eg := rfl
@[simp] theorem setSync_filt (v : Correlator) : (s.setSync v).filt = s.filt := rfl
@[simp] theorem setSync_dl (v : Correlator) : (s.setSync v).dl = s.dl := rfl
@[simp] theorem setSync_sync (v : Correlator) : (s.setSync v).sync = v := rfl
@[simp] theorem setSync_ps (v : Correlator) : (s.setSync v).ps = s.ps := rfl
@[simp] theorem setSync_cmdq (v : Correlator) : (s.setSync v).cmdq = s.cmdq := rfl
@[simp] theorem setSync_evq (v : Correlator) : (s.setSync v).evq = s.evq := rfl
@[simp] theorem setSync_ca (v : Correlator) : (s.setSync v).ca = s.ca := rfl
@[simp] theorem setSync_draws (v : Correlator) : (s.setSync v).draws = s.draws := rfl
@[simp] theorem setSync_agenda (v : Correlator) : (s.setSync v).agenda = s.agenda := rfl
@[simp] theorem setSync_hostReads (v : Correlator) : (s.setSync v).hostReads = s.hostReads := rfl

/-! ### setPs -/

@[simp] theorem setPs_cfg (v : Sequencer) : (s.setPs v).cfg = s.cfg := rfl
@[simp] theorem setPs_csr (v : Sequencer) : (s.setPs v).csr = s.csr := rfl
@[simp] theorem setPs_irqEn (v : Sequencer) : (s.setPs v).irqEn = s.irqEn := rfl
@[simp] theorem setPs_errs (v : Sequencer) : (s.setPs v).errs = s.errs := rfl
@[simp] theorem setPs_cnt (v : Sequencer) : (s.setPs v).cnt = s.cnt := rfl
@[simp] theorem setPs_pg (v : Sequencer) : (s.setPs v).pg = s.pg := rfl
@[simp] theorem setPs_eg (v : Sequencer) : (s.setPs v).eg = s.eg := rfl
@[simp] theorem setPs_filt (v : Sequencer) : (s.setPs v).filt = s.filt := rfl
@[simp] theorem setPs_dl (v : Sequencer) : (s.setPs v).dl = s.dl := rfl
@[simp] theorem setPs_sync (v : Sequencer) : (s.setPs v).sync = s.sync := rfl
@[simp] theorem setPs_ps (v : Sequencer) : (s.setPs v).ps = v := rfl
@[simp] theorem setPs_cmdq (v : Sequencer) : (s.setPs v).cmdq = s.cmdq := rfl
@[simp] theorem setPs_evq (v : Sequencer) : (s.setPs v).evq = s.evq := rfl
@[simp] theorem setPs_ca (v : Sequencer) : (s.setPs v).ca = s.ca := rfl
@[simp] theorem setPs_draws (v : Sequencer) : (s.setPs v).draws = s.draws := rfl
@[simp] theorem setPs_agenda (v : Sequencer) : (s.setPs v).agenda = s.agenda := rfl
@[simp] theorem setPs_hostReads (v : Sequencer) : (s.setPs v).hostReads = s.hostReads := rfl

/-! ### setErrs -/

@[simp] theorem setErrs_cfg (v : ErrorRegs) : (s.setErrs v).cfg = s.cfg := rfl
@[simp] theorem setErrs_csr (v : ErrorRegs) : (s.setErrs v).csr = s.csr := rfl
@[simp] theorem setErrs_irqEn (v : ErrorRegs) : (s.setErrs v).irqEn = s.irqEn := rfl
@[simp] theorem setErrs_errs (v : ErrorRegs) : (s.setErrs v).errs = v := rfl
@[simp] theorem setErrs_cnt (v : ErrorRegs) : (s.setErrs v).cnt = s.cnt := rfl
@[simp] theorem setErrs_pg (v : ErrorRegs) : (s.setErrs v).pg = s.pg := rfl
@[simp] theorem setErrs_eg (v : ErrorRegs) : (s.setErrs v).eg = s.eg := rfl
@[simp] theorem setErrs_filt (v : ErrorRegs) : (s.setErrs v).filt = s.filt := rfl
@[simp] theorem setErrs_dl (v : ErrorRegs) : (s.setErrs v).dl = s.dl := rfl
@[simp] theorem setErrs_sync (v : ErrorRegs) : (s.setErrs v).sync = s.sync := rfl
@[simp] theorem setErrs_ps (v : ErrorRegs) : (s.setErrs v).ps = s.ps := rfl
@[simp] theorem setErrs_cmdq (v : ErrorRegs) : (s.setErrs v).cmdq = s.cmdq := rfl
@[simp] theorem setErrs_evq (v : ErrorRegs) : (s.setErrs v).evq = s.evq := rfl
@[simp] theorem setErrs_ca (v : ErrorRegs) : (s.setErrs v).ca = s.ca := rfl
@[simp] theorem setErrs_draws (v : ErrorRegs) : (s.setErrs v).draws = s.draws := rfl
@[simp] theorem setErrs_agenda (v : ErrorRegs) : (s.setErrs v).agenda = s.agenda := rfl
@[simp] theorem setErrs_hostReads (v : ErrorRegs) : (s.setErrs v).hostReads = s.hostReads := rfl

/-! ### setCnt -/

@[simp] theorem setCnt_cfg (v : Counters) : (s.setCnt v).cfg = s.cfg := rfl
@[simp] theorem setCnt_csr (v : Counters) : (s.setCnt v).csr = s.csr := rfl
@[simp] theorem setCnt_irqEn (v : Counters) : (s.setCnt v).irqEn = s.irqEn := rfl
@[simp] theorem setCnt_errs (v : Counters) : (s.setCnt v).errs = s.errs := rfl
@[simp] theorem setCnt_cnt (v : Counters) : (s.setCnt v).cnt = v := rfl
@[simp] theorem setCnt_pg (v : Counters) : (s.setCnt v).pg = s.pg := rfl
@[simp] theorem setCnt_eg (v : Counters) : (s.setCnt v).eg = s.eg := rfl
@[simp] theorem setCnt_filt (v : Counters) : (s.setCnt v).filt = s.filt := rfl
@[simp] theorem setCnt_dl (v : Counters) : (s.setCnt v).dl = s.dl := rfl
@[simp] theorem setCnt_sync (v : Counters) : (s.setCnt v).sync = s.sync := rfl
@[simp] theorem setCnt_ps (v : Counters) : (s.setCnt v).ps = s.ps := rfl
@[simp] theorem setCnt_cmdq (v : Counters) : (s.setCnt v).cmdq = s.cmdq := rfl
@[simp] theorem setCnt_evq (v : Counters) : (s.setCnt v).evq = s.evq := rfl
@[simp] theorem setCnt_ca (v : Counters) : (s.setCnt v).ca = s.ca := rfl
@[simp] theorem setCnt_draws (v : Counters) : (s.setCnt v).draws = s.draws := rfl
@[simp] theorem setCnt_agenda (v : Counters) : (s.setCnt v).agenda = s.agenda := rfl
@[simp] theorem setCnt_hostReads (v : Counters) : (s.setCnt v).hostReads = s.hostReads := rfl

/-! ### pushEvq -/

@[simp] theorem pushEvq_cfg (v : List Word) : (s.pushEvq v).cfg = s.cfg := rfl
@[simp] theorem pushEvq_csr (v : List Word) : (s.pushEvq v).csr = s.csr := rfl
@[simp] theorem pushEvq_irqEn (v : List Word) : (s.pushEvq v).irqEn = s.irqEn := rfl
@[simp] theorem pushEvq_errs (v : List Word) : (s.pushEvq v).errs = s.errs := rfl
@[simp] theorem pushEvq_cnt (v : List Word) : (s.pushEvq v).cnt = s.cnt := rfl
@[simp] theorem pushEvq_pg (v : List Word) : (s.pushEvq v).pg = s.pg := rfl
@[simp] theorem pushEvq_eg (v : List Word) : (s.pushEvq v).eg = s.eg := rfl
@[simp] theorem pushEvq_filt (v : List Word) : (s.pushEvq v).filt = s.filt := rfl
@[simp] theorem pushEvq_dl (v : List Word) : (s.pushEvq v).dl = s.dl := rfl
@[simp] theorem pushEvq_sync (v : List Word) : (s.pushEvq v).sync = s.sync := rfl
@[simp] theorem pushEvq_ps (v : List Word) : (s.pushEvq v).ps = s.ps := rfl
@[simp] theorem pushEvq_cmdq (v : List Word) : (s.pushEvq v).cmdq = s.cmdq := rfl
@[simp] theorem pushEvq_evq (v : List Word) : (s.pushEvq v).evq = s.evq ++ v := rfl
@[simp] theorem pushEvq_ca (v : List Word) : (s.pushEvq v).ca = s.ca := rfl
@[simp] theorem pushEvq_draws (v : List Word) : (s.pushEvq v).draws = s.draws := rfl
@[simp] theorem pushEvq_agenda (v : List Word) : (s.pushEvq v).agenda = s.agenda := rfl
@[simp] theorem pushEvq_hostReads (v : List Word) : (s.pushEvq v).hostReads = s.hostReads := rfl

/-! ### drawn -/

@[simp] theorem drawn_cfg (v : Nat) : (s.drawn v).cfg = s.cfg := rfl
@[simp] theorem drawn_csr (v : Nat) : (s.drawn v).csr = s.csr := rfl
@[simp] theorem drawn_irqEn (v : Nat) : (s.drawn v).irqEn = s.irqEn := rfl
@[simp] theorem drawn_errs (v : Nat) : (s.drawn v).errs = s.errs := rfl
@[simp] theorem drawn_cnt (v : Nat) : (s.drawn v).cnt = s.cnt := rfl
@[simp] theorem drawn_pg (v : Nat) : (s.drawn v).pg = s.pg := rfl
@[simp] theorem drawn_eg (v : Nat) : (s.drawn v).eg = s.eg := rfl
@[simp] theorem drawn_filt (v : Nat) : (s.drawn v).filt = s.filt := rfl
@[simp] theorem drawn_dl (v : Nat) : (s.drawn v).dl = s.dl := rfl
@[simp] theorem drawn_sync (v : Nat) : (s.drawn v).sync = s.sync := rfl
@[simp] theorem drawn_ps (v : Nat) : (s.drawn v).ps = s.ps := rfl
@[simp] theorem drawn_cmdq (v : Nat) : (s.drawn v).cmdq = s.cmdq := rfl
@[simp] theorem drawn_evq (v : Nat) : (s.drawn v).evq = s.evq := rfl
@[simp] theorem drawn_ca (v : Nat) : (s.drawn v).ca = s.ca := rfl
@[simp] theorem drawn_draws (v : Nat) : (s.drawn v).draws = s.draws + v := rfl
@[simp] theorem drawn_agenda (v : Nat) : (s.drawn v).agenda = s.agenda := rfl
@[simp] theorem drawn_hostReads (v : Nat) : (s.drawn v).hostReads = s.hostReads := rfl

end Sys2Proof.Machine.State
end

