-- ==== Sys2Proof/Laws/Ops.lean ====
section
/-! SUPPORT. One lemma per shared operation, saying all it can do; later proofs cite these and do not unfold it. -/

namespace Sys2Proof.Machine

/-! ## Events and errors -/

/-- An event is its two framing words and its payload. -/
theorem eventWords_length (ty : EventType) (h : Word) (info : BitVec 16) (payload : List Word) :
    (eventWords ty h info payload).length = 2 + payload.length := by
  simp [eventWords]; omega

/-- `emit` appends one event and changes nothing else. -/
theorem emit_eq (s : State) (ty : EventType) (h : Word) (info : BitVec 16) (payload : List Word) :
    s.emit ty h info payload = { s with evq := s.evq ++ eventWords ty h info payload } := rfl

/-- The error bookkeeping changes the event queue, the error registers and the counters, and nothing else. -/
theorem takeError_eq (s : State) (c : ErrCode) (h : Word) :
    s.takeError c h =
      { s with
        evq := s.evq ++ eventWords .error h (BitVec.ofNat 16 c.num) [h]
        errs := s.errs.record c h, cnt := s.cnt.countError c } := rfl

/-- A host-access error sets ERR_STICKY[13] and nothing else. -/
theorem takeAccessError_eq (s : State) :
    s.takeAccessError = { s with errs := { s.errs with sticky := s.errs.sticky ||| (1#32 <<< 13) } } := rfl

section
variable (s : State) (ty : EventType) (h : Word) (info : BitVec 16) (payload : List Word) (c : ErrCode)

@[simp] theorem emit_cfg : (s.emit ty h info payload).cfg = s.cfg := rfl
@[simp] theorem emit_csr : (s.emit ty h info payload).csr = s.csr := rfl
@[simp] theorem emit_irqEn : (s.emit ty h info payload).irqEn = s.irqEn := rfl
@[simp] theorem emit_errs : (s.emit ty h info payload).errs = s.errs := rfl
@[simp] theorem emit_cnt : (s.emit ty h info payload).cnt = s.cnt := rfl
@[simp] theorem emit_pg : (s.emit ty h info payload).pg = s.pg := rfl
@[simp] theorem emit_eg : (s.emit ty h info payload).eg = s.eg := rfl
@[simp] theorem emit_filt : (s.emit ty h info payload).filt = s.filt := rfl
@[simp] theorem emit_dl : (s.emit ty h info payload).dl = s.dl := rfl
@[simp] theorem emit_sync : (s.emit ty h info payload).sync = s.sync := rfl
@[simp] theorem emit_ps : (s.emit ty h info payload).ps = s.ps := rfl
@[simp] theorem emit_cmdq : (s.emit ty h info payload).cmdq = s.cmdq := rfl
@[simp] theorem emit_evq : (s.emit ty h info payload).evq = s.evq ++ eventWords ty h info payload := rfl
@[simp] theorem emit_ca : (s.emit ty h info payload).ca = s.ca := rfl
@[simp] theorem emit_draws : (s.emit ty h info payload).draws = s.draws := rfl
@[simp] theorem emit_agenda : (s.emit ty h info payload).agenda = s.agenda := rfl
@[simp] theorem emit_hostReads : (s.emit ty h info payload).hostReads = s.hostReads := rfl

@[simp] theorem takeError_cfg : (s.takeError c h).cfg = s.cfg := rfl
@[simp] theorem takeError_csr : (s.takeError c h).csr = s.csr := rfl
@[simp] theorem takeError_irqEn : (s.takeError c h).irqEn = s.irqEn := rfl
@[simp] theorem takeError_errs : (s.takeError c h).errs = s.errs.record c h := rfl
@[simp] theorem takeError_cnt : (s.takeError c h).cnt = s.cnt.countError c := rfl
@[simp] theorem takeError_pg : (s.takeError c h).pg = s.pg := rfl
@[simp] theorem takeError_eg : (s.takeError c h).eg = s.eg := rfl
@[simp] theorem takeError_filt : (s.takeError c h).filt = s.filt := rfl
@[simp] theorem takeError_dl : (s.takeError c h).dl = s.dl := rfl
@[simp] theorem takeError_sync : (s.takeError c h).sync = s.sync := rfl
@[simp] theorem takeError_ps : (s.takeError c h).ps = s.ps := rfl
@[simp] theorem takeError_cmdq : (s.takeError c h).cmdq = s.cmdq := rfl
@[simp] theorem takeError_evq :
    (s.takeError c h).evq = s.evq ++ eventWords .error h (BitVec.ofNat 16 c.num) [h] := rfl
@[simp] theorem takeError_ca : (s.takeError c h).ca = s.ca := rfl
@[simp] theorem takeError_draws : (s.takeError c h).draws = s.draws := rfl
@[simp] theorem takeError_agenda : (s.takeError c h).agenda = s.agenda := rfl
@[simp] theorem takeError_hostReads : (s.takeError c h).hostReads = s.hostReads := rfl

end

/-! ## The frame of every meaning -/

/-- A command of the right length runs its family's rule. -/
theorem runCommand_of_lengthOk {i : Instr} {s : State} {body : State → State} (h : i.lengthOk s.cfg = true) :
    runCommand i s body = .next (body s) := by
  simp [runCommand, h]

/-- A command of the wrong length is rejected with LENGTH_MISMATCH. -/
theorem runCommand_of_not_lengthOk {i : Instr} {s : State} {body : State → State} (h : i.lengthOk s.cfg = false) :
    runCommand i s body = .next (s.takeError .lengthMismatch i.header) := by
  simp [runCommand, h]

/-- All that the frame of a meaning can answer. -/
theorem runCommand_cases {i : Instr} {s t : State} {body : State → State} (h : runCommand i s body = .next t) :
    (i.lengthOk s.cfg = true ∧ t = body s) ∨
      (i.lengthOk s.cfg = false ∧ t = s.takeError .lengthMismatch i.header) := by
  cases hl : i.lengthOk s.cfg <;> simp [runCommand, hl] at h <;> simp [h]

/-! ## Draws -/

@[simp] theorem drawList_length (d n : Nat) : (drawList d n).length = n := by simp [drawList]

/-- A draw from a set that holds its default is in the set. -/
theorem drawIn_mem {p : Word → Bool} {dflt : Word} (r : Word) (h : p dflt = true) : p (drawIn p dflt r) = true := by
  unfold drawIn; split <;> assumption

/-- A computed value that is no NaN is output as it is. -/
theorem settle_of_not_nan {v : Word} (r : Word) (h : F32.isNaN v = false) : settle v r = v := by simp [settle, h]

/-- A computed NaN is output as some NaN. -/
theorem settle_nan {v : Word} (r : Word) (h : F32.isNaN v = true) : F32.isNaN (settle v r) = true := by
  simp only [settle, h, if_true]
  exact drawIn_mem r (by decide)

@[simp] theorem settleList_length (d : Nat) (vs : List Word) : (settleList d vs).length = vs.length := by
  simp [settleList]

/-! ## The engine's and the host's turns -/

/-- With no turn listed the engine moves. -/
theorem takeTurn_empty {s : State} (h : s.agenda = []) : s.takeTurn = s.engineStep := by simp [State.takeTurn, h]

/-- An engine turn is taken and the engine moves. -/
theorem takeTurn_engine {s : State} {rest : List Turn} (h : s.agenda = .engine :: rest) :
    s.takeTurn = { s with agenda := rest }.engineStep := by simp [State.takeTurn, h]

/-- A host access that is not held is taken. -/
theorem takeTurn_host {s : State} {a : HostAccess} {rest : List Turn} (h : s.agenda = .host a :: rest)
    (hh : s.held a = false) : s.takeTurn = .next ({ s with agenda := rest }.hostStep a) := by
  simp [State.takeTurn, h, hh]

/-- A held push stays and the engine moves. -/
theorem takeTurn_held {s : State} {a : HostAccess} {rest : List Turn} (h : s.agenda = .host a :: rest)
    (hh : s.held a = true) : s.takeTurn = s.engineStep := by
  simp [State.takeTurn, h, hh]

/-- With a complete command in CA the engine performs it. -/
theorem engineStep_complete {s : State} {h p : Word} {pay : List Word} (hc : s.ca = .body h p pay 0) :
    s.engineStep = s.performWords h p pay := by simp [State.engineStep, hc]

/-- Without a complete command in CA the engine receives a word, or is idle. -/
theorem engineStep_incomplete {s : State} (hc : s.ca.isComplete = false) : s.engineStep = .next s.receive := by
  unfold State.engineStep
  cases h : s.ca with
  | empty => rfl
  | header _ => rfl
  | body hh p pay due =>
    cases due with
    | zero => simp [h, Assembly.isComplete] at hc
    | succ n => rfl

end Sys2Proof.Machine
end

