-- ==== Sys2Proof/Laws/PerInstr.lean ====
section
/-! SUPPORT. The family OpcodeByte: the header word that the encoder gives a command carries the command's `{UNIT, OP}` and
no reserved ARG bit, so that the decoder's opcode map reads the same command kind back. One lemma per command. -/

namespace Sys2Proof.Laws.OpcodeByte

/-- The `{UNIT, OP}` byte that 30_encoding.md R93 assigns to a command. -/
def byte : Instr → BitVec 8
  | .nop _ => 0x00 | .marker _ _ => 0x01 | .resetAll _ => 0x02
  | .pgainProc _ => 0x10 | .pgainReset _ => 0x11 | .egainProc _ => 0x12 | .egainReset _ => 0x13
  | .filtLoad _ _ => 0x20 | .firApply _ => 0x21 | .hbDecim _ => 0x22 | .filtReset _ => 0x23
  | .filtSelect _ _ _ _ => 0x24
  | .dlInsert _ _ _ _ => 0x30 | .dlUpdate _ _ => 0x31 | .dlAdjust _ _ => 0x32 | .dlExtract _ _ _ => 0x33
  | .dlReset _ => 0x34
  | .syncLoad _ _ _ _ _ => 0x40 | .syncReset _ => 0x41
  | .fecDec12 _ _ => 0x50 | .fecDec34 _ _ => 0x51 | .crcHdr _ => 0x52
  | .psStart _ _ => 0x60 | .psAdd _ _ _ => 0x61 | .psQuery _ => 0x62 | .psReset _ => 0x63

/-- The header's top byte is the command's `{UNIT, OP}` (R90, R93). -/
def Statement (i : Instr) : Prop := i.header.extractLsb' 24 8 = byte i

theorem nop (p : List Word) : Statement (.nop p) := by
  unfold Statement Instr.header byte; repeat rw [BitVec.extractLsb'_append_eq_of_le (by decide)]
  rfl
theorem marker (t : BitVec 24) (p : List Word) : Statement (.marker t p) := by
  unfold Statement Instr.header byte; repeat rw [BitVec.extractLsb'_append_eq_of_le (by decide)]
  rfl
theorem resetAll (p : List Word) : Statement (.resetAll p) := by
  unfold Statement Instr.header byte; repeat rw [BitVec.extractLsb'_append_eq_of_le (by decide)]
  rfl
theorem pgainProc (p : List Word) : Statement (.pgainProc p) := by
  unfold Statement Instr.header byte; repeat rw [BitVec.extractLsb'_append_eq_of_le (by decide)]
  rfl
theorem pgainReset (p : List Word) : Statement (.pgainReset p) := by
  unfold Statement Instr.header byte; repeat rw [BitVec.extractLsb'_append_eq_of_le (by decide)]
  rfl
theorem egainProc (p : List Word) : Statement (.egainProc p) := by
  unfold Statement Instr.header byte; repeat rw [BitVec.extractLsb'_append_eq_of_le (by decide)]
  rfl
theorem egainReset (p : List Word) : Statement (.egainReset p) := by
  unfold Statement Instr.header byte; repeat rw [BitVec.extractLsb'_append_eq_of_le (by decide)]
  rfl
theorem filtLoad (b : Bool) (p : List Word) : Statement (.filtLoad b p) := by
  unfold Statement Instr.header byte; repeat rw [BitVec.extractLsb'_append_eq_of_le (by decide)]
  rfl
theorem firApply (p : List Word) : Statement (.firApply p) := by
  unfold Statement Instr.header byte; repeat rw [BitVec.extractLsb'_append_eq_of_le (by decide)]
  rfl
theorem hbDecim (p : List Word) : Statement (.hbDecim p) := by
  unfold Statement Instr.header byte; repeat rw [BitVec.extractLsb'_append_eq_of_le (by decide)]
  rfl
theorem filtReset (p : List Word) : Statement (.filtReset p) := by
  unfold Statement Instr.header byte; repeat rw [BitVec.extractLsb'_append_eq_of_le (by decide)]
  rfl
theorem filtSelect (fi : BitVec 3) (hi : BitVec 3) (lk : Bool) (p : List Word) : Statement (.filtSelect fi hi lk p) := by
  unfold Statement Instr.header byte; repeat rw [BitVec.extractLsb'_append_eq_of_le (by decide)]
  rfl
theorem dlInsert (y : Dibit) (c : Bool) (e : Bool) (p : List Word) : Statement (.dlInsert y c e p) := by
  unfold Statement Instr.header byte; repeat rw [BitVec.extractLsb'_append_eq_of_le (by decide)]
  rfl
theorem dlUpdate (n : BitVec 12) (p : List Word) : Statement (.dlUpdate n p) := by
  unfold Statement Instr.header byte; repeat rw [BitVec.extractLsb'_append_eq_of_le (by decide)]
  rfl
theorem dlAdjust (d : Bool) (p : List Word) : Statement (.dlAdjust d p) := by
  unfold Statement Instr.header byte; repeat rw [BitVec.extractLsb'_append_eq_of_le (by decide)]
  rfl
theorem dlExtract (a : BitVec 12) (n : BitVec 12) (p : List Word) : Statement (.dlExtract a n p) := by
  unfold Statement Instr.header byte; repeat rw [BitVec.extractLsb'_append_eq_of_le (by decide)]
  rfl
theorem dlReset (p : List Word) : Statement (.dlReset p) := by
  unfold Statement Instr.header byte; repeat rw [BitVec.extractLsb'_append_eq_of_le (by decide)]
  rfl
theorem syncLoad (k : BitVec 4) (n : BitVec 7) (t : BitVec 7) (v : Bool) (p : List Word) : Statement (.syncLoad k n t v p) := by
  unfold Statement Instr.header byte; repeat rw [BitVec.extractLsb'_append_eq_of_le (by decide)]
  rfl
theorem syncReset (p : List Word) : Statement (.syncReset p) := by
  unfold Statement Instr.header byte; repeat rw [BitVec.extractLsb'_append_eq_of_le (by decide)]
  rfl
theorem fecDec12 (r : BitVec 16) (p : List Word) : Statement (.fecDec12 r p) := by
  unfold Statement Instr.header byte; repeat rw [BitVec.extractLsb'_append_eq_of_le (by decide)]
  rfl
theorem fecDec34 (r : BitVec 16) (p : List Word) : Statement (.fecDec34 r p) := by
  unfold Statement Instr.header byte; repeat rw [BitVec.extractLsb'_append_eq_of_le (by decide)]
  rfl
theorem crcHdr (p : List Word) : Statement (.crcHdr p) := by
  unfold Statement Instr.header byte; repeat rw [BitVec.extractLsb'_append_eq_of_le (by decide)]
  rfl
theorem psStart (e : BitVec 8) (p : List Word) : Statement (.psStart e p) := by
  unfold Statement Instr.header byte; repeat rw [BitVec.extractLsb'_append_eq_of_le (by decide)]
  rfl
theorem psAdd (e : BitVec 8) (o : BitVec 8) (p : List Word) : Statement (.psAdd e o p) := by
  unfold Statement Instr.header byte; repeat rw [BitVec.extractLsb'_append_eq_of_le (by decide)]
  rfl
theorem psQuery (p : List Word) : Statement (.psQuery p) := by
  unfold Statement Instr.header byte; repeat rw [BitVec.extractLsb'_append_eq_of_le (by decide)]
  rfl
theorem psReset (p : List Word) : Statement (.psReset p) := by
  unfold Statement Instr.header byte; repeat rw [BitVec.extractLsb'_append_eq_of_le (by decide)]
  rfl

end Sys2Proof.Laws.OpcodeByte
end

