-- ==== Sys2Proof/Laws/Units.lean ====
section
/-! SUPPORT. One lemma per shared operation of a unit: everything it changes, as one record update. Later proofs cite these
and do not unfold the operation. -/

namespace Sys2Proof.Machine

/-- Every meaning is check 4 and then its family's rule. -/
theorem exec_eq_runCommand (i : Instr) (s : State) : ∃ body, exec i s = runCommand i s body := by
  cases i <;>
    simp only [exec, execNop, execMarker, execResetAll, execPgainProc, execPgainReset, execEgainProc, execEgainReset,
      execFiltLoad, execFirApply, execHbDecim, execFiltReset, execFiltSelect, execDlInsert, execDlUpdate, execDlAdjust,
      execDlExtract, execDlReset, execSyncLoad, execSyncReset, execFecDec12, execFecDec34, execCrcHdr, execPsStart,
      execPsAdd, execPsQuery, execPsReset] <;>
    exact ⟨_, rfl⟩

/-! ## Gain normalizer -/

theorem resetPg_eq (s : State) :
    s.resetPg = { s with pg := { gain := s.csr.pgInit, peak := 0, obj := s.csr.pgInit, poison := false } } := rfl

theorem resetPgOrPoison_of_legal {s : State} (h : F32.finitePos s.csr.pgInit = true) :
    s.resetPgOrPoison = s.resetPg := by simp [State.resetPgOrPoison, h]

theorem resetPgOrPoison_of_illegal {s : State} (h : F32.finitePos s.csr.pgInit = false) :
    s.resetPgOrPoison = { s with
      pg := {
        gain := Config.freeWord s.draws, peak := Config.freeWord (s.draws + 1)
        obj := Config.freeWord (s.draws + 2), poison := true }
      draws := s.draws + 3 } := by simp [State.resetPgOrPoison, h]; rfl

theorem normalPg_eq (s : State) (h : Word) (ys : List Word) :
    s.normalPg h ys =
      let peak := trackPeak s.csr s.pg ys
      let obj := objectiveGain s.csr peak
      let run := gainLoop s.csr obj (F32.clamp s.pg.gain s.csr.pgMin s.csr.pgMax) ys
      { s with
        pg := { gain := run.1, peak := peak, obj := obj, poison := s.pg.poison }
        evq := s.evq ++ eventWords .outReal h 0 run.2 } := rfl

/-- `cause` decides only whether the report comes first. -/
theorem poisonPg_eq (s : State) (h : Word) (cause : Bool) (n : Nat) :
    s.poisonPg h cause n =
      let b := if cause then s.takeError .nonfinite h else s
      { b with
        pg := {
          gain := Config.freeWord (s.draws + n), peak := Config.freeWord (s.draws + n + 1)
          obj := Config.freeWord (s.draws + n + 2), poison := true }
        evq := b.evq ++ eventWords .outReal h 0 (drawList s.draws n)
        draws := s.draws + (n + 3) } := by cases cause <;> rfl

theorem resetEg_eq (s : State) :
    s.resetEg = { s with
      eg := {
        win := List.replicate s.cfg.maxEnvWindow 0, wptr := 0, max := 0
        gain := F32.div s.csr.egObj s.csr.egFloor, w := s.csr.egWindow.toNat, poison := false } } := rfl

theorem resetEgOrPoison_of_legal {s : State} (h : s.csr.legalEg = true) : s.resetEgOrPoison = s.resetEg := by
  simp [State.resetEgOrPoison, h]

theorem resetEgOrPoison_of_illegal {s : State} (h : s.csr.legalEg = false) :
    s.resetEgOrPoison = { s with
      eg := {
        win := drawList s.draws s.cfg.maxEnvWindow, wptr := 0
        max := Config.freeWord (s.draws + s.cfg.maxEnvWindow)
        gain := Config.freeWord (s.draws + s.cfg.maxEnvWindow + 1), w := s.csr.egWindow.toNat, poison := true }
      draws := s.draws + (s.cfg.maxEnvWindow + 2) } := by simp [State.resetEgOrPoison, h]; rfl

theorem normalEg_eq (s : State) (h : Word) (zs : List (Word × Word)) :
    s.normalEg h zs =
      let run := envelopeLoop s.csr { s.eg with gain := envelopeGain s.csr s.eg.max } zs
      { s with
        eg := run.1, evq := s.evq ++ eventWords .outCplx h 0 (settleList s.draws (complexWords run.2))
        draws := s.draws + (complexWords run.2).length } := rfl

/-- `cause` decides only whether the report comes first. -/
theorem poisonEg_eq (s : State) (h : Word) (cause : Bool) (n : Nat) :
    s.poisonEg h cause n =
      let b := if cause then s.takeError .nonfinite h else s
      let d := s.draws + 2 * n
      { b with
        eg := { s.eg with
          win := drawList d (min s.eg.w s.eg.win.length) ++ s.eg.win.drop s.eg.w
          max := Config.freeWord (d + s.eg.w), gain := Config.freeWord (d + s.eg.w + 1)
          wptr := (s.eg.wptr + n) % s.eg.w, poison := true }
        evq := b.evq ++ eventWords .outCplx h 0 (drawList s.draws (2 * n))
        draws := s.draws + (2 * n + s.eg.w + 2) } := by cases cause <;> rfl

/-! ## Filters, delay line, correlator -/

theorem resetFilters_eq (s : State) :
    s.resetFilters = { s with
      filt := { s.filt with fir := s.filt.fir.clear s.cfg, hb := s.filt.hb.clear s.cfg, phase := false } } := rfl

theorem resetDelayLine_eq (s : State) :
    s.resetDelayLine = { s with dl := { buf := List.replicate s.cfg.dlCapacity 0, ptr := 0 } } := rfl

theorem resetCorrelator_eq (s : State) :
    s.resetCorrelator = { s with
      sync := { s.sync with miss := 0, inSync := false, last := { valid := false, dist := 0, k := 0 } } } := rfl

theorem matchStep_eq (s : State) (h : Word) (k d : Nat) :
    s.matchStep h k d = { s with
      evq := s.evq ++ eventWords .syncMatch h (0#4 ++ BitVec.ofNat 8 d ++ BitVec.ofNat 4 k) [s.sync.miss]
      sync := { s.sync with
        miss := 0, inSync := true, last := { valid := true, dist := BitVec.ofNat 8 d, k := BitVec.ofNat 4 k } }
      cnt := { s.cnt with syncMatch := s.cnt.syncMatch + 1 } } := rfl

/-- The misses that fire SYNC_LOST: the count is not saturated and one more is the threshold. -/
theorem reachesLoss_iff (s : State) :
    s.reachesLoss ↔
      s.csr.syncLossThr ≠ 0 ∧ s.sync.miss ≠ 0xFFFFFFFF#32 ∧ s.sync.miss + 1 = s.csr.syncLossThr := by
  unfold State.reachesLoss satSucc
  by_cases h : s.sync.miss = 0xFFFFFFFF#32 <;> simp [h]

theorem missStep_of_lost {s : State} (h : Word) (hl : s.reachesLoss) :
    s.missStep h = { s with
      evq := s.evq ++ eventWords .syncLost h 0 [satSucc s.sync.miss]
      sync := { s.sync with miss := satSucc s.sync.miss, inSync := false }
      cnt := { s.cnt with syncLost := s.cnt.syncLost + 1 } } := by
  unfold State.missStep; rw [if_pos hl]; rfl

theorem missStep_of_not_lost {s : State} (h : Word) (hl : ¬ s.reachesLoss) :
    s.missStep h = { s with sync := { s.sync with miss := satSucc s.sync.miss } } := by
  unfold State.missStep; rw [if_neg hl]; rfl

/-- A correlation is a match step or a miss step, of a state it reads whole. -/
theorem correlate_cases (s : State) (h : Word) :
    (∃ m, bestMatch s.matched = some m ∧ s.correlate h = s.matchStep h m.1 m.2) ∨
      (bestMatch s.matched = none ∧ s.correlate h = s.missStep h) := by
  unfold State.correlate
  cases hb : bestMatch s.matched with
  | some m => exact .inl ⟨m, rfl, rfl⟩
  | none => exact .inr ⟨rfl, rfl⟩

/-- There is a best match exactly when something matches, and it is one of the matches. -/
theorem bestMatch_none_iff (ms : List (Nat × Nat)) : bestMatch ms = none ↔ ms = [] := by
  cases ms with
  | nil => simp [bestMatch]
  | cons m rest => simp only [bestMatch]; split <;> (try split) <;> simp

/-! ## Queue counts -/

/-- A queue count that 32 bits hold reads as itself. -/
theorem countWord_of_lt {off : BitVec 12} {n : Nat} (h : n < 2 ^ 32) : countWord off n = BitVec.ofNat 32 n := if_pos h

/-! ## Trellis decoder, packet sequencer -/

/-- A decode changes the event queue, two counters and the draw count. -/
theorem trellisDecode_eq (s : State) (h : Word) (rate : Bool) (k : Nat) (out : List (List (BitVec 4)))
    (prior : BitVec 16) (pay : List Word) :
    s.trellisDecode h rate k out prior pay =
      let block := trellisSteps s.cfg.trellisSteps s.cfg.trellisFlush (receivedSymbols s.cfg.trellisSteps pay)
      let new := (costTable (2 ^ k) out block).getD 0 0
      let bits := ((traceBest (2 ^ k) out block 0 s.draws).take (s.cfg.trellisSteps - s.cfg.trellisFlush)).flatMap
        (inputBits k)
      { s with
        evq := s.evq ++ eventWords .fecResult h ((BitVec.ofBool rate).setWidth 16)
          ([BitVec.ofNat 32 (prior.toNat + new), BitVec.ofNat 32 new] ++ packBits bits)
        cnt := { s.cnt with
          fecBlocks := s.cnt.fecBlocks + 1, corrected := s.cnt.corrected + BitVec.ofNat 32 new }
        draws := s.draws + s.cfg.trellisSteps } := rfl

theorem emitPacket_eq (s : State) (h : Word) :
    s.emitPacket h = { s with
      evq := s.evq ++ eventWords .packet h (BitVec.ofNat 16 s.ps.decl) s.ps.packetPayload
      cnt := { s.cnt with packets := s.cnt.packets + 1 } } := rfl

theorem resetSequencer_eq (s : State) : s.resetSequencer = { s with ps := Sequencer.reset } := rfl

end Sys2Proof.Machine
end

