-- ==== Sys2Proof/Tests/Slice0.lean ====
section
/-! SUPPORT. Tests. Every expected value is taken from the worked examples and vectors of the spec (95_test_vectors.md or the
rule named), or worked out by hand from the rule named. Each is about one step, or one decode. -/

namespace Sys2Proof.Tests

open Sys2Proof.Machine

/-! ## Helpers -/

/-- The state with the command `h`, `p`, `pay` complete in CA. -/
def given (s : State) (h p : Word) (pay : List Word) : State := { s with ca := .body h p pay 0 }

/-- One step from `s` answers a next state that satisfies `check`. -/
def stepTo (s : State) (check : State → Bool) : Bool :=
  match step s with
  | .next t => check t
  | _ => false

/-- The events that one step performing a command from `s` appends are `ev`. -/
def emits (s : State) (h p : Word) (pay ev : List Word) : Bool :=
  stepTo (given s h p pay) fun t => t.evq == s.evq ++ ev

/-- A state with a loaded FIR bank {0.5, 0.25, 0.125} (V-FI-2). -/
def firLoaded : State :=
  { State.reset with
    filt := { State.reset.filt with fir := State.reset.filt.fir.load [0x3F000000, 0x3E800000, 0x3E000000] } }

/-- A state with a loaded half-band bank {0.25, 0.5, 0.25} (V-FI-6). -/
def hbLoaded : State :=
  { State.reset with
    filt := { State.reset.filt with hb := State.reset.filt.hb.load [0x3E800000, 0x3F000000, 0x3E800000] } }

/-- A state whose line is {0,0,1,3,1,3,1,2}, oldest first, with pointer 0 (V-DL-3). -/
def lineLoaded : State := { State.reset with dl := { buf := [0, 0, 1, 3, 1, 3, 1, 2], ptr := 0 } }

/-- `lineLoaded` with template {d:1313}, tolerance `tol`, in slot 0 (§2.5). -/
def templateLoaded (tol : Nat) : State :=
  { lineLoaded with
    sync := { lineLoaded.sync with
      tpl := [{ v := true, ndib := 4, tol := tol, pat := expandDibits [1, 3, 1, 3] }, Template.reset] } }

/-- The words of header H2 (§1.3). -/
def h2 : List Word := [0x163F0012, 0x34560200, 0x00003FEA]

/-- The sequencer after PS.START with H2 (V-PS-3). -/
def started : State := { State.reset with ps := Sequencer.start (headerOfWords h2) 0 }

/-- `started` with the block of V-PS-5 added. -/
def oneBlock : State := { started with ps := started.ps.add { err := 1, oct := 4, data := [0xDE, 0xAD, 0xBE, 0xEF] } }

/-! ## WellFormed refuses an ill-formed command by each check -/

theorem test_wellFormed_refuses_long_payload :
    Instr.wellFormed Config.refcfg (.pgainProc (List.replicate 1025 0)) = false := by decide +kernel
theorem test_wellFormed_refuses_wrong_length : Instr.wellFormed Config.refcfg (.nop [0]) = false := by decide
theorem test_wellFormed_refuses_odd_pairs : Instr.wellFormed Config.refcfg (.egainProc [0, 0, 0]) = false := by decide
theorem test_wellFormed_accepts : Instr.wellFormed Config.refcfg (.crcHdr h2) = true := by decide
theorem test_legal_refuses_zero_capacity : Config.legal { Config.refcfg with dlCapacity := 0 } = false := by decide
theorem test_legal_refuses_all_flush : Config.legal { Config.refcfg with trellisFlush := 3 } = false := by decide
theorem test_legal_refuses_repeated_symbol :
    Config.legal { Config.refcfg with out12 := List.replicate 4 [0, 0, 1, 2] } = false := by decide
theorem test_legal_refuses_zero_step : Config.legal { Config.refcfg with pgStepRst := 0 } = false := by decide
theorem test_refcfg_legal : Config.refcfg.legal = true := by decide
theorem test_refcfg_eventsFit : Config.refcfg.eventsFit = true := by decide

/-! ## Every command's header word, written out from R93 and R94, decodes to the command -/

/-- The decoded command of a header word and payload under REFCFG. -/
def reads (h : Word) (pay : List Word) : Option Instr :=
  (decode Config.refcfg h (BitVec.ofNat 32 pay.length) pay).toOption

theorem test_decode_nop : reads 0x00000000 [] = some (.nop []) := by decide
theorem test_decode_marker : reads 0x01ABCDEF [] = some (.marker 0xABCDEF []) := by decide
theorem test_decode_resetAll : reads 0x02000000 [] = some (.resetAll []) := by decide
theorem test_decode_pgainProc : reads 0x10000000 [7] = some (.pgainProc [7]) := by decide
theorem test_decode_pgainReset : reads 0x11000000 [] = some (.pgainReset []) := by decide
theorem test_decode_egainProc : reads 0x12000000 [7, 8] = some (.egainProc [7, 8]) := by decide
theorem test_decode_egainReset : reads 0x13000000 [] = some (.egainReset []) := by decide
theorem test_decode_filtLoad : reads 0x20000001 [7] = some (.filtLoad true [7]) := by decide
theorem test_decode_firApply : reads 0x21000000 [7] = some (.firApply [7]) := by decide
theorem test_decode_hbDecim : reads 0x22000000 [7] = some (.hbDecim [7]) := by decide
theorem test_decode_filtReset : reads 0x23000000 [] = some (.filtReset []) := by decide
/-- R166's example: FI = 1, HI = 5, LK = 1. -/
theorem test_decode_filtSelect : reads 0x24000151 [] = some (.filtSelect 1 5 true []) := by decide
/-- R191's example (E = 1), and C = 1 of §2.5. -/
theorem test_decode_dlInsert :
    reads 0x30000203 [] = some (.dlInsert 3 false true []) ∧ reads 0x30000102 [] = some (.dlInsert 2 true false []) := by
  decide
theorem test_decode_dlUpdate : reads 0x31000004 [0x77000000] = some (.dlUpdate 4 [0x77000000]) := by decide
theorem test_decode_dlAdjust : reads 0x32000001 [] = some (.dlAdjust true []) := by decide
/-- V-DL-6: START = 2, LEN = 3. -/
theorem test_decode_dlExtract : reads 0x33003002 [] = some (.dlExtract 2 3 []) := by decide
theorem test_decode_dlReset : reads 0x34000000 [] = some (.dlReset []) := by decide
/-- V-SY-5: K = 2, NDIB = 4, TOL = 1, V = 1. -/
theorem test_decode_syncLoad : reads 0x40040842 [0x77000000] = some (.syncLoad 2 4 1 true [0x77000000]) := by decide
theorem test_decode_syncReset : reads 0x41000000 [] = some (.syncReset []) := by decide
theorem test_decode_fecDec12 : reads 0x50000005 [7] = some (.fecDec12 5 [7]) := by decide
theorem test_decode_fecDec34 : reads 0x5100FFFF [7] = some (.fecDec34 0xFFFF [7]) := by decide
theorem test_decode_crcHdr : reads 0x52000000 h2 = some (.crcHdr h2) := by decide
theorem test_decode_psStart : reads 0x60000001 h2 = some (.psStart 1 h2) := by decide
/-- V-PS-5: ERR = 1, OCT = 4. -/
theorem test_decode_psAdd : reads 0x61000401 [0xDEADBEEF] = some (.psAdd 1 4 [0xDEADBEEF]) := by decide
theorem test_decode_psQuery : reads 0x62000000 [] = some (.psQuery []) := by decide
theorem test_decode_psReset : reads 0x63000000 [] = some (.psReset []) := by decide

/-- The encoder gives back the words of R160's, R194's and R210's examples. -/
theorem test_encode_examples :
    encode (.filtLoad false [0x3F000000, 0x3E800000, 0x3E000000]) =
      [0x20000000, 3, 0x3F000000, 0x3E800000, 0x3E000000] ∧
    encode (.dlExtract 0 8 []) = [0x33008000, 0] ∧
    encode (assembleSyncLoad 0 1 [1, 3, 1, 3]) = [0x40040840, 1, 0x77000000] := by decide

/-- The checks of R92 in order: V-ER-2, the length before the reserved bits, V-ER-1. -/
theorem test_decode_refusals :
    decode Config.refcfg 0x70000000 2 [5, 6] = .error .illegalCmd ∧
    decode Config.refcfg 0x20000002 0x401 [] = .error .lengthLimit ∧
    decode Config.refcfg 0x20000002 0 [] = .error .reservedArg := by decide

theorem test_tableWord : decodeTableWord 32 0x52000000 = some (.crcHdr []) := by decide
theorem test_withFetchWord :
    stepTo (State.reset.withFetchWord 32 0x01ABCDEF) (fun t => t.evq == [0x0B010000, 1, 0x00ABCDEF]) = true := by
  decide
theorem test_pseudo_snap : Pseudo.expand (.dlSnap [1, 3, 1, 3]) = [.dlUpdate 4 [0x77000000]] := by decide

/-! ## Binary32 -/

/-- 0.1 + 0.2 = 0x3E99999A; the largest finite value doubled overflows; half of the least subnormal ties to even, 0. -/
theorem test_add_rounds : F32.add 0x3DCCCCCD 0x3E4CCCCD = 0x3E99999A := by decide
theorem test_mul_overflows : F32.mul 0x7F7FFFFF 0x40000000 = 0x7F800000 := by decide
theorem test_mul_subnormal_tie : F32.mul 0x00000001 0x3F000000 = 0 := by decide
/-- 1/3 = 0x3EAAAAAB, rounded up. -/
theorem test_div_rounds : F32.div 0x3F800000 0x40400000 = 0x3EAAAAAB := by decide
/-- sqrt 2 = 0x3FB504F3; V-GA-9's sqrt(0.375^2 + 0.5^2) = 0.625. -/
theorem test_sqrt : F32.sqrt 0x40000000 = 0x3FB504F3 ∧ magnitude (0x3EC00000, 0x3F000000) = 0x3F200000 := by
  decide +kernel
theorem test_signed_zero : F32.add 0x80000000 0x80000000 = 0x80000000 ∧ F32.sub 0x3F800000 0x3F800000 = 0 := by
  decide
/-- 2^24 + 1 ties to even. -/
theorem test_ofNat : F32.ofNat 16777217 = 0x4B800000 := by decide

/-! ## One step of each command -/

/-- V-CT-2. -/
theorem test_nop : stepTo (given State.reset 0 0 []) (fun t => t == { State.reset with cnt := { State.reset.cnt with cmd := 1 } })
    = true := by decide
/-- V-CT-1. -/
theorem test_marker : emits State.reset 0x01ABCDEF 0 [] [0x0B010000, 1, 0x00ABCDEF] = true := by decide
/-- R122's example: DL_PTR and PS_STAT read 0 after it, and R311: a loaded bank stays. -/
theorem test_resetAll :
    stepTo (given { oneBlock with dl := { State.reset.dl with ptr := 3 }, filt := firLoaded.filt } 0x02000000 0 [])
      (fun t => t.csrWord .dlPtr == 0 && t.csrWord .psStat == 0 && t.csrWord .firTaps == 3) = true := by decide
/-- R312: an illegal PG_INIT poisons, the rest of the reset still happens, and no ERROR event is emitted. -/
theorem test_resetAll_poisons :
    stepTo (given { oneBlock with csr := { State.reset.csr with pgInit := 0 } } 0x02000000 0 [])
      (fun t => t.pg.poison && !t.eg.poison && t.csrWord .psStat == 0 && t.evq == []) = true := by decide
/-- V-GA-1. -/
theorem test_pgainProc :
    stepTo (given State.reset 0x10000000 4 [0x3EC00000, 0x3E000000, 0x3E800000, 0x3E800000]) (fun t =>
      t.evq == [0x01100000, 4, 0x3E200000, 0xBE400000, 0, 0] && t.pg.gain == 0x40000000 && t.pg.peak == 0x3E000000 &&
      t.pg.obj == 0x40800000) = true := by decide
/-- V-GA-6: one report, then an output buffer of two drawn values; STATUS[9]. -/
theorem test_pgainProc_poison :
    stepTo (given State.reset 0x10000000 2 [0x3F000000, 0x7FC00000]) (fun t =>
      t.evq.take 5 == [0x0F100009, 1, 0x10000000, 0x01100000, 2] && t.evq.length == 7 && t.pg.poison) = true := by
  decide
/-- V-GA-7. -/
theorem test_pgainReset :
    stepTo (given { State.reset with pg := { gain := 1, peak := 2, obj := 3, poison := true } } 0x11000000 0 [])
      (fun t => t.pg == { gain := 0x3F800000, peak := 0, obj := 0x3F800000, poison := false }) = true := by decide
/-- The first three pairs of V-GA-9: gains 4, 2, 1. -/
theorem test_egainProc :
    emits State.reset 0x12000000 6 [0, 0, 0, 0x3E800000, 0x3F000000, 0]
      [0x02120000, 6, 0, 0, 0, 0x3F000000, 0x3F000000, 0] = true := by decide +kernel
/-- R136: in a window of two, a sample that ejects the maximum 0.5 rescans to 0.25, so the gain is 2. -/
theorem test_egainProc_rescan :
    stepTo (given { State.reset with eg := { State.reset.eg with win := [0x3F000000, 0], w := 2, max := 0x3F000000 } }
      0x12000000 2 [0x3E800000, 0]) (fun t => t.eg.max == 0x3E800000 && t.eg.gain == 0x40000000) = true := by decide +kernel
/-- V-GA-11. -/
theorem test_egainReset :
    stepTo (given { State.reset with eg := { State.reset.eg with w := 2, poison := true } } 0x13000000 0 [])
      (fun t => t.csrWord .egWinActive == 4 && t.csrWord .egGain == 0x40800000 && !t.eg.poison) = true := by decide
/-- V-FI-2's load and V-FI-5's refusal of an asymmetric half-band bank. -/
theorem test_filtLoad :
    stepTo (given State.reset 0x20000000 3 [0x3F000000, 0x3E800000, 0x3E000000]) (fun t => t.csrWord .firTaps == 3) = true := by
  decide
theorem test_filtLoad_asymmetric :
    emits State.reset 0x20000001 3 [0x3E800000, 0x3F000000, 0x3E000000] [0x0F200005, 1, 0x20000001] = true := by
  decide
/-- V-FI-2: the impulse response, then 2 * 0.5. -/
theorem test_firApply :
    emits firLoaded 0x21000000 5 [0x3F800000, 0, 0, 0, 0x40000000]
      [0x01210000, 5, 0x3F000000, 0x3E800000, 0x3E000000, 0, 0x3F800000] = true := by decide
/-- V-FI-1: a rejected FIR.APPLY locks nothing. -/
theorem test_firApply_not_configured :
    stepTo (given State.reset 0x21000000 1 [0x3F800000])
      (fun t => t.evq == [0x0F210006, 1, 0x21000000] && !t.filt.lk) = true := by decide
/-- V-FI-6: {1, 2, 3, 4} keeps {1, 3}; then P4's odd count leaves HB_PHASE = 1. -/
theorem test_hbDecim :
    emits hbLoaded 0x22000000 4 [0x3F800000, 0x40000000, 0x40400000, 0x40800000]
      [0x01220000, 2, 0x3F800000, 0x40400000] = true := by decide
theorem test_hbDecim_odd :
    stepTo (given hbLoaded 0x22000000 3 [0x3F800000, 0x40000000, 0x40400000])
      (fun t => t.evq == [0x01220000, 1, 0x3F800000] && t.filt.phase && t.filt.lk) = true := by decide
/-- V-FI-12: the flag is cleared, the bank and the lock are kept. -/
theorem test_filtReset :
    stepTo (given { firLoaded with filt := { firLoaded.filt with lk := true, fir := { firLoaded.filt.fir with poison := true } } }
      0x23000000 0 []) (fun t => !t.filt.fir.poison && t.filt.lk && t.filt.fir.valid) = true := by decide
/-- V-FI-4 and V-FI-3. -/
theorem test_filtSelect_fallback :
    stepTo (given State.reset 0x24000151 0 [])
      (fun t => t.evq == [0x0F240008, 1, 0x24000151] && t.csrWord .filtSel == 0x101) = true := by decide
theorem test_filtSelect_locked :
    emits { State.reset with filt := { State.reset.filt with lk := true } } 0x24000151 0 []
      [0x0F240007, 1, 0x24000151] = true := by decide
/-- V-DL-2. -/
theorem test_dlInsert :
    stepTo (given State.reset 0x30000203 0 [])
      (fun t => t.evq == [0x03300000, 0] && t.dl.ptr == 1 && t.logical 7 == 3) = true := by decide
/-- §2.5: after {…,1,3,1,2} one more symbol 3 gives the window 3,1,2,3 against 1,3,1,3: bits 11011011 and 01110111 differ
in 4 places, so tolerance 4 matches and tolerance 3 misses (the miss count before is 0). -/
theorem test_dlInsert_correlate :
    emits (templateLoaded 4) 0x30000103 0 [] [0x05300040, 1, 0] = true ∧
    stepTo (given (templateLoaded 3) 0x30000103 0 []) (fun t => t.evq == [] && t.sync.miss == 1) = true := by decide
/-- V-DL-4. -/
theorem test_dlUpdate :
    stepTo (given lineLoaded 0x31000004 1 [0x77000000])
      (fun t => (List.range 8).map t.logical == [0, 0, 1, 3, 1, 3, 1, 3] && t.dl.ptr == 0) = true := by decide
/-- V-DL-9. -/
theorem test_dlUpdate_range : emits lineLoaded 0x31000009 1 [0] [0x0F310005, 1, 0x31000009] = true := by decide
/-- R193's example: DL_PTR = 0, L = 8, D = 1 gives 7; V-DL-11: back with D = 0. -/
theorem test_dlAdjust : stepTo (given State.reset 0x32000001 0 []) (fun t => t.dl.ptr == 7) = true := by decide
theorem test_dlAdjust_forward :
    stepTo (given { State.reset with dl := { State.reset.dl with ptr := 7 } } 0x32000000 0 []) (fun t => t.dl.ptr == 0)
      = true := by decide
/-- V-DL-6 (dibits 1, 3, 1) and V-DL-8. -/
theorem test_dlExtract : emits lineLoaded 0x33003002 0 [] [0x04330003, 1, 0x74000000] = true := by decide
theorem test_dlExtract_range : emits lineLoaded 0x33008001 0 [] [0x0F330005, 1, 0x33008001] = true := by decide
/-- V-DL-13. -/
theorem test_dlReset :
    stepTo (given lineLoaded 0x34000000 0 []) (fun t => t.dl == { buf := List.replicate 8 0, ptr := 0 }) = true := by
  decide
/-- R210's example. -/
theorem test_syncLoad :
    stepTo (given State.reset 0x40040840 1 [0x77000000]) (fun t => t.sync.tpl == (templateLoaded 1).sync.tpl) = true := by
  decide
/-- V-SY-6: NDIB = 9 > L. -/
theorem test_syncLoad_long : emits State.reset 0x40040890 1 [0] [0x0F400005, 1, 0x40040890] = true := by decide
/-- V-SY-10. -/
theorem test_syncReset :
    stepTo (given { templateLoaded 1 with sync := { (templateLoaded 1).sync with miss := 4, inSync := true } } 0x41000000 0 [])
      (fun t => t.sync.miss == 0 && !t.sync.inSync && t.csrWord .syncTvalid == 1) = true := by decide
/-- V-FE-6: NEW 1, PRIOR 5, total 6, bits 1001. -/
theorem test_fecDec12 :
    stepTo (given State.reset 0x50000005 1 [0xA6100000])
      (fun t => t.evq == [0x07500000, 3, 6, 1, 0x90000000] && t.cnt.fecBlocks == 1 && t.cnt.corrected == 1) = true := by
  decide
/-- V-FE-7: bits 101011. -/
theorem test_fecDec34 :
    emits State.reset 0x51000000 1 [0xA6000000] [0x07510001, 3, 0, 0, 0xAC000000] = true := by decide
/-- V-CR-2 (bit 37 corrected) and V-CR-7 (two bits, invalid, unchanged). -/
theorem test_crcHdr :
    emits State.reset 0x52000000 3 [0x163F0012, 0x30560200, 0x00003FEA]
      [0x08522503, 3, 0x163F0012, 0x34560200, 0x00003FEA] = true := by decide +kernel
theorem test_crcHdr_invalid :
    emits State.reset 0x52000000 3 [0x123F0012, 0x34560208, 0x00003FEA]
      [0x08520000, 3, 0x123F0012, 0x34560208, 0x00003FEA] = true := by decide +kernel
/-- V-PS-3 and V-PS-11. -/
theorem test_psStart :
    stepTo (given State.reset 0x60000000 3 h2) (fun t => t.evq == [] && t.csrWord .psStat == 9) = true := by decide
theorem test_psStart_abandons :
    emits started 0x60000000 3 [0, 0, 0xFFFF]
      [0x0F60000C, 1, 0x60000000, 0x09600000, 5, 0, 0, 0xFFFF, 0, 0x60] = true := by decide
/-- V-PS-7 and V-PS-2. -/
theorem test_psAdd_completes :
    emits oneBlock 0x61000200 1 [0xCAFE0000]
      [0x09610002, 9, 0x163F0012, 0x34560200, 0x00003FEA, 1, 0x90, 0x401, 0xDEADBEEF, 0x200, 0xCAFE0000] = true := by
  decide
theorem test_psAdd_no_header :
    emits State.reset 0x61000401 1 [0xDEADBEEF] [0x0F61000A, 1, 0x61000401] = true := by decide
/-- V-PS-6. -/
theorem test_psQuery : emits oneBlock 0x62000000 0 [] [0x0A62020A, 2, 1, 0x80] = true := by decide
/-- V-PS-14. -/
theorem test_psReset : stepTo (given oneBlock 0x63000000 0 []) (fun t => t.ps == Sequencer.reset) = true := by decide

/-! ## The engine and the host -/

/-- V-ER-2: the words of a reserved encoding are consumed and reported. -/
theorem test_illegal :
    stepTo (given State.reset 0x70000000 2 [5, 6]) (fun t =>
      t.evq == [0x0F700001, 1, 0x70000000] && t.ca == .empty && t.errs == { sticky := 2, last := 1, lastCmd := 0x70000000 } &&
      t.cnt.cmd == 1 && t.cnt.err == 1) = true := by decide
/-- V-CT-4: with 2 free words a MARKER holds; STATUS.HOLD = 1. -/
theorem test_hold :
    stepTo (given { State.reset with cfg := { Config.refcfg with evqDepth := 2 } } 0x01000000 0 [])
      (fun t => t.evq == [] && t.hold && t.cnt.cmd == 0) = true := by decide
/-- V-CS-10: a header word alone makes CMD_PARTIAL. -/
theorem test_receive :
    stepTo { State.reset with cmdq := [0x01000000] } (fun t => t.ca == .header 0x01000000 && t.csrWord .status == 0x2000)
      = true := by decide
/-- V-CS-2: an unmapped offset reads 0 and sets ERR_STICKY[13]. -/
theorem test_host_unmapped :
    stepTo { State.reset with agenda := [.host (.read 4 0x034)] }
      (fun t => t.hostReads == [0] && t.errs.sticky == 0x2000 && t.cnt.err == 0) = true := by decide
/-- V-CS-4: write 1 to clear. -/
theorem test_host_sticky :
    stepTo { State.reset with errs := { State.reset.errs with sticky := 0x2000 }, agenda := [.host (.write 4 0x010 0xFFFFFFFF)] }
      (fun t => t.errs.sticky == 0) = true := by decide
/-- V-CS-5 and V-CS-6. -/
theorem test_host_window :
    (State.reset.hostWrite 4 0x068 17).csr.egWindow = 4 ∧ (State.reset.hostWrite 4 0x068 0x00010008).csr.egWindow = 8 := by
  decide
/-- V-CS-8: a pop returns the oldest word. -/
theorem test_host_pop :
    stepTo { State.reset with evq := [0x0B010000, 1, 0], agenda := [.host (.read 4 0x02C)] }
      (fun t => t.hostReads == [0x0B010000] && t.evq == [1, 0]) = true := by decide
/-- R38: a push to a full queue is held, and the engine receives meanwhile. -/
theorem test_host_push_held :
    stepTo { State.reset with cfg := { Config.refcfg with cmdqDepth := 1 }, cmdq := [7], agenda := [.host (.write 4 0x024 9)] }
      (fun t => t.cmdq == [] && t.ca == .header 7 && t.agenda == [.host (.write 4 0x024 9)]) = true := by decide
/-- R248's example. -/
theorem test_header_fields :
    [headerFmt, headerSap, headerVendor, headerLlid, headerBtf, headerPadop, headerDho].map (· (headerOfWords h2))
      = [0x16, 0x3F, 0x00, 0x123456, 2, 0, 0] ∧ headerCrc (headerOfWords h2) = 0x3FEA := by decide
/-- R241's examples. -/
theorem test_syndromes :
    [0, 1, 79, 80, 95].map (singleSyndrome Config.refcfg) = [0xE434, 0x721A, 0x1021, 0x8000, 0x0001] := by decide +kernel

/-! ## Witnesses: concrete states and operands that meet the hypotheses of a statement together, clause by clause -/

/-- `given` with one turn of the engine listed. -/
def due (h p : Word) (pay : List Word) : State := { given State.reset h p pay with agenda := [.engine] }

/-- All four poison flags set. -/
def poisoned : State :=
  { State.reset with
    pg := { State.reset.pg with poison := true }, eg := { State.reset.eg with poison := true }
    filt := {
      firLoaded.filt with
      fir := { firLoaded.filt.fir with poison := true }, hb := { hbLoaded.filt.hb with poison := true } } }

/-- `State.reset` with gain configuration registers that fail every legality test. -/
def illegalGain : State :=
  { State.reset with csr := { State.reset.csr with pgTarget := 0, pgInit := 0, egObj := 0x7FC00000 } }

/-- Eight inserts of symbols 1 and 2 in turn, every one with E = 1. -/
def eightInserts : List Instr := [1, 2, 1, 2, 1, 2, 1, 2].map fun d => .dlInsert d false true []

/-- A header that declares three blocks. -/
def threeBlocks : Header := 3#96 <<< 40

/-- A list of words is finite throughout; stated over `List.all`, which the kernel evaluates. -/
theorem allFinite {xs : List Word} (h : xs.all F32.finite = true) : ∀ x ∈ xs, F32.finite x = true := List.all_eq_true.mp h
/-- The entries of an envelope window are finite and not negative. -/
theorem allMagnitudes {xs : List Word} (h : xs.all (fun m => F32.finite m && !F32.sign m) = true) :
    ∀ m ∈ xs, F32.finite m = true ∧ F32.sign m = false := by
  simpa using h
/-- A soundness proof of a bank, field by field. -/
theorem bankOk {c : Config} {k : Bank} (h1 : k.coef.length = c.maxTaps) (h2 : k.hist.length = c.maxTaps - 1)
    (h3 : 1 ≤ k.taps ∧ k.taps ≤ c.maxTaps ∨ k.valid = false) (h4 : (k.coef.take k.taps).all F32.finite = true)
    (h5 : k.hist.all F32.finite = true) : k.Ok c :=
  ⟨h1, h2, fun hv => by rcases h3 with h | h
                        · exact ⟨h.1, h.2, allFinite h4⟩
                        · rw [h] at hv; exact absurd hv (by decide), fun _ => allFinite h5⟩

theorem witness_StepRunsDecodedCommand :
    (∃ t, (due 0x01ABCDEF 0 []).ca = .body 0x01ABCDEF 0 [] 0 ∧ (due 0x01ABCDEF 0 []).agenda = .engine :: [] ∧
      decode (due 0x01ABCDEF 0 []).cfg 0x01ABCDEF 0 [] = .ok (.marker 0xABCDEF []) ∧
      exec (.marker 0xABCDEF []) { due 0x01ABCDEF 0 [] with agenda := [] } = .next t) ∧
    ∃ t, (given State.reset 0 0 []).ca = .body 0 0 [] 0 ∧ (given State.reset 0 0 []).agenda = [] ∧
      decode (given State.reset 0 0 []).cfg 0 0 [] = .ok (.nop []) ∧
      exec (.nop []) { given State.reset 0 0 [] with agenda := [] } = .next t :=
  ⟨⟨_, rfl, rfl, by decide, rfl⟩, ⟨_, rfl, rfl, by decide, rfl⟩⟩
theorem witness_StepRejectsUndecodableWords :
    (due 0x70000000 2 [5, 6]).agenda = .engine :: [] ∧
      decode (due 0x70000000 2 [5, 6]).cfg 0x70000000 2 [5, 6] = .error .illegalCmd ∧
    (given State.reset 0x00800000 0 []).agenda = [] ∧
      decode (given State.reset 0x00800000 0 []).cfg 0x00800000 0 [] = .error .reservedArg := by decide
theorem witness_DecodeEncodeRoundTrip :
    Config.refcfg.legal = true ∧ Instr.wellFormed Config.refcfg (.syncLoad 15 127 127 true (List.replicate 8 0)) = true := by
  decide
theorem witness_CommandAssembly :
    (∃ s : State, s.agenda = [] ∧ s.ca = .empty ∧ s.cmdq = 0 :: 0 :: ([] ++ [7]) ∧ ([] : List Word).length = (0 : Word).toNat) ∧
    ∃ s : State, s.agenda = [] ∧ s.ca = .empty ∧ s.cmdq = 0x70000000 :: 2 :: ([5, 6] ++ [7]) ∧
      ([5, 6] : List Word).length = (2 : Word).toNat :=
  ⟨⟨{ State.reset with cmdq := [0, 0, 7] }, by decide⟩, ⟨{ State.reset with cmdq := [0x70000000, 2, 5, 6, 7] }, by decide⟩⟩
theorem witness_EngineNeverHalts : State.reset.agenda = [] ∧ (given State.reset 0 0 []).agenda = [] := by decide
theorem resetFilters : State.reset.filt.Ok State.reset.cfg :=
  ⟨bankOk rfl rfl (.inr rfl) rfl (by decide), bankOk rfl rfl (.inr rfl) rfl (by decide), by decide, by decide, by decide⟩
theorem resetInv : State.reset.Inv :=
  ⟨by decide, by decide, by decide, resetFilters, by decide, by decide, trivial, by decide, by decide, by decide,
    by decide⟩
theorem resetEnvelope : State.reset.eg.Law := fun _ => ⟨allMagnitudes (by decide), by decide⟩
theorem witness_StepKeepsInvariant : State.reset.Inv ∧ ∃ t, step State.reset = .next t := ⟨resetInv, _, rfl⟩
theorem witness_ResetMeetsInvariant : Config.refcfg.legal = true := by decide
theorem witness_EmptyQueueNeverHolds :
    (due 0x33008000 0 []).Inv ∧ (due 0x33008000 0 []).cfg.eventsFit = true ∧ (due 0x33008000 0 []).evq = [] :=
  ⟨⟨by decide, by decide, by decide, resetFilters, by decide, by decide, ⟨by decide, by decide⟩, by decide, by decide,
    by decide, by decide⟩, by decide, by decide⟩
theorem witness_CommandFrame : ∃ t, exec (.psQuery []) State.reset = .next t := ⟨_, rfl⟩
theorem witness_UnitFrames :
    (∃ t, exec (.psQuery []) State.reset = .next t) ∧ drivesPg (.psQuery []) = false ∧ drivesEg (.psQuery []) = false ∧
    drivesFilt (.psQuery []) = false ∧ drivesDl (.psQuery []) = false ∧ drivesSync (.psQuery []) = false ∧
    drivesPs (.psQuery []) = false ∧ (∀ b pay, Instr.psQuery [] ≠ .filtLoad b pay) ∧
    (∀ k n tol v pay, Instr.psQuery [] ≠ .syncLoad k n tol v pay) ∧
    ∀ fi hi lk pay, Instr.psQuery [] ≠ .filtSelect fi hi lk pay :=
  ⟨⟨_, rfl⟩, rfl, rfl, rfl, rfl, rfl, rfl, by simp, by simp, by simp⟩
/-- A reject (FIR.APPLY with no coefficients), and a command that makes an event and no error. -/
theorem witness_AtMostOneError :
    (∃ t, exec (.firApply [0]) State.reset = .next t ∧ t.cnt.err = 1) ∧
    ∃ t, exec (.psQuery []) State.reset = .next t ∧ t.cnt.err = 0 ∧ t.evq ≠ [] :=
  ⟨⟨_, rfl, rfl⟩, ⟨_, rfl, rfl, by decide⟩⟩
theorem witness_ErrorBookkeeping :
    (Instr.nop [0]).pay ≠ [] ∧ ([0] : List Word).length % 2 = 1 ∧
    ([0] : List Word).length ≠ ((17 : BitVec 12).toNat + 15) / 16 ∧
    ([0] : List Word).length ≠ (if true then ((17 : BitVec 7).toNat + 15) / 16 else 0) ∧
    ([0] : List Word).length ≠ (if false then ((17 : BitVec 7).toNat + 15) / 16 else 0) ∧
    ([] : List Word).length ≠ (State.reset.cfg.trellisSteps + 7) / 8 ∧ ([0] : List Word).length ≠ 3 ∧
    ([0] : List Word).length ≠ ((5 : BitVec 8).toNat + 3) / 4 := by decide
theorem witness_PoisonClearedOnlyByReset :
    (∃ t, exec (.nop []) poisoned = .next t) ∧ (∀ pay, Instr.nop [] ≠ .resetAll pay) ∧ poisoned.pg.poison = true ∧
    (∀ pay, Instr.nop [] ≠ .pgainReset pay) ∧ poisoned.eg.poison = true ∧ (∀ pay, Instr.nop [] ≠ .egainReset pay) ∧
    poisoned.filt.fir.poison = true ∧ poisoned.filt.hb.poison = true ∧ ∀ pay, Instr.nop [] ≠ .filtReset pay :=
  ⟨⟨_, rfl⟩, by simp, rfl, by simp, rfl, by simp, rfl, rfl, by simp⟩
/-- Operands of each clause; the largest finite value plus half a spacing, the overflow threshold itself, is infinite, and plus
the next value below that is finite. -/
theorem witness_ArithmeticRoundsToNearest :
    F32.finite 0x7F7FFFFF = true ∧ F32.finite 0x73000000 = true ∧ F32.finite 0x72FFFFFF = true ∧
    F32.overflowUnits * 1 ≤ (F32.value 0x7F7FFFFF + F32.value 0x73000000).natAbs ∧
    F32.add 0x7F7FFFFF 0x73000000 = 0x7F800000 ∧
    ¬ F32.overflowUnits * 1 ≤ (F32.value 0x7F7FFFFF + F32.value 0x72FFFFFF).natAbs ∧
    F32.add 0x7F7FFFFF 0x72FFFFFF = 0x7F7FFFFF ∧ F32.value 0x73000000 ≠ 0 ∧ 0 ≤ F32.value 0x3F800000 ∧
    0 ≤ F32.value 0x00000001 := by decide +kernel
theorem witness_ResetAllEffect :
    F32.finitePos State.reset.csr.pgInit = true ∧ F32.finitePos State.reset.csr.egObj = true ∧
    F32.finitePos State.reset.csr.egFloor = true ∧ F32.finitePos illegalGain.csr.pgInit = false ∧
    F32.finitePos illegalGain.csr.egObj = false := by decide
theorem witness_PgainProcResult :
    let pay : List Word := [0x3EC00000, 0x3E000000, 0x3E800000, 0x3E800000]
    let mean := F32.div (pay.foldl F32.add 0) (F32.ofNat pay.length)
    State.reset.csr.legalPg = true ∧ pay ≠ [] ∧ State.reset.pg.poison = false ∧ (∀ x ∈ pay, F32.finite x = true) ∧
    ∀ y ∈ pay.map fun x => F32.sub x mean, F32.finite y = true :=
  ⟨by decide, by decide, by decide, allFinite (by decide), allFinite (by decide +kernel)⟩
theorem witness_GainOtherPaths :
    illegalGain.csr.legalPg = false ∧ State.reset.csr.legalPg = true ∧ ([0x7FC00000] : List Word) ≠ [] ∧
    (([0x7FC00000] : List Word).any fun x => !F32.finite x || !F32.finite (F32.sub x 0)) = true ∧
    poisoned.pg.poison = true ∧ poisoned.csr.legalPg = true ∧ ([0, 0] : List Word).length % 2 = 0 ∧
    F32.finitePos illegalGain.csr.egObj = false ∧ F32.finitePos State.reset.csr.egObj = true ∧
    F32.finitePos State.reset.csr.egFloor = true ∧ poisoned.eg.poison = true ∧
    (([0x7FC00000, 0] : List Word).any fun x => !F32.finite x) = true := by decide +kernel
theorem witness_PeakGainLawKept : State.reset.Inv ∧ State.reset.pg.Law ∧ ∃ t, step State.reset = .next t :=
  ⟨resetInv, by decide, _, rfl⟩
theorem witness_GainStaysInRange :
    State.reset.csr.legalPg = true ∧ State.reset.pg.Law ∧ ([0x3F800000, 0] : List Word) ≠ [] ∧
    ∃ t, exec (.pgainProc [0x3F800000, 0]) State.reset = .next t ∧ t.pg.poison = false :=
  ⟨by decide, by decide, by decide, _, rfl, by decide +kernel⟩
theorem witness_GainStepBounded :
    State.reset.csr.legalPg = true ∧ F32.finitePos 0x40800000 = true ∧ F32.finitePos 0x3F800000 = true ∧
    F32.lt 0x3F800000 0x40800000 = true ∧ F32.lt 0x40800000 0x3F800000 = false ∧
    F32.lt 0x3F800000 0x3F800000 = false ∧ F32.finite (F32.add 0x3F800000 State.reset.csr.pgStep) = true := by
  decide +kernel
theorem witness_EgainProcResult :
    State.reset.eg.Ok State.reset.cfg ∧ State.reset.eg.Law ∧ State.reset.eg.poison = false ∧
    F32.finitePos State.reset.csr.egObj = true ∧ F32.finitePos State.reset.csr.egFloor = true ∧
    ([0, 0x3E800000] : List Word).length % 2 = 0 ∧ (∀ x ∈ ([0, 0x3E800000] : List Word), F32.finite x = true) ∧
    ∀ z ∈ complexSamples [0, 0x3E800000], F32.finite (magnitude z) = true :=
  ⟨by decide, resetEnvelope, by decide, by decide, by decide, by decide, allFinite (by decide),
    List.all_eq_true.mp (by decide +kernel)⟩
theorem witness_EnvelopeLawKept : State.reset.Inv ∧ State.reset.eg.Law ∧ ∃ t, step State.reset = .next t :=
  ⟨resetInv, resetEnvelope, _, rfl⟩
theorem witness_FiltLoadEffect :
    let ok := fun (b : Bool) (pay : List Word) =>
      1 ≤ pay.length ∧ pay.length ≤ State.reset.cfg.maxTaps ∧ (∀ h ∈ pay, F32.finite h = true) ∧
      (b = true → ∀ k, k < pay.length → F32.eq (pay.getD k 0) (pay.getD (pay.length - 1 - k) 0) = true)
    ok false [0x3F800000] ∧ ok true (List.replicate 8 0) ∧ ¬ ok false [] ∧ ¬ ok false (List.replicate 9 0) ∧
    ¬ ok true [0, 0x3F800000] :=
  ⟨⟨by decide, by decide, allFinite (by decide), by simp⟩, ⟨by decide, by decide, allFinite (by decide), by decide⟩,
    fun h => absurd h.1 (by decide), fun h => absurd h.2.1 (by decide),
    fun h => absurd (h.2.2.2 rfl 0 (by decide)) (by decide)⟩
theorem witness_FirApplyConvolves :
    firLoaded.filt.fir.Ok firLoaded.cfg ∧ 1 ≤ firLoaded.cfg.maxTaps ∧ firLoaded.filt.fir.valid = true ∧
    firLoaded.filt.fir.poison = false ∧ firLoaded.filt.fi = 0 ∧ ∀ x ∈ ([0x3F800000] : List Word), F32.finite x = true :=
  ⟨bankOk rfl rfl (.inl (by decide)) (by decide) (by decide), by decide, rfl, rfl, rfl, allFinite (by decide)⟩
theorem witness_HbDecimKeepsEverySecond :
    hbLoaded.filt.hb.Ok hbLoaded.cfg ∧ 1 ≤ hbLoaded.cfg.maxTaps ∧ hbLoaded.filt.hb.valid = true ∧
    hbLoaded.filt.hb.poison = false ∧ hbLoaded.filt.hi = 0 ∧ (∀ x ∈ ([0x3F800000] : List Word), F32.finite x = true) ∧
    hbLoaded.filt.phase = false ∧
    ∃ s : State, s.filt.hb.Ok s.cfg ∧ 1 ≤ s.cfg.maxTaps ∧ s.filt.hb.valid = true ∧ s.filt.hb.poison = false ∧
      s.filt.hi = 0 ∧ s.filt.phase = true :=
  ⟨bankOk rfl rfl (.inl (by decide)) (by decide) (by decide), by decide, rfl, rfl, rfl, allFinite (by decide), rfl,
    { hbLoaded with filt := { hbLoaded.filt with phase := true } },
    bankOk rfl rfl (.inl (by decide)) (by decide) (by decide), by decide, rfl, rfl, rfl, rfl⟩
theorem witness_FilterParity :
    (∀ x ∈ ([0x3F800000] : List Word), F32.finite x = true) ∧ firLoaded.filt.fir.valid = true ∧
    firLoaded.filt.fir.poison = false ∧ hbLoaded.filt.hb.valid = true ∧ hbLoaded.filt.hb.poison = false :=
  ⟨allFinite (by decide), rfl, rfl, rfl, rfl⟩
theorem witness_FilterOtherPaths :
    State.reset.filt.fir.valid = false ∧ State.reset.filt.hb.valid = false ∧ poisoned.filt.fir.valid = true ∧
    poisoned.filt.fir.poison = true ∧ poisoned.filt.hb.valid = true ∧ poisoned.filt.hb.poison = true ∧
    (([0x7F800000] : List Word).any fun x => !F32.finite x) = true := by decide
theorem witness_FiltSelectEffect :
    { State.reset.filt with lk := true }.lk = true ∧ State.reset.filt.lk = false ∧
    (1 : BitVec 3).toNat < State.reset.cfg.numFilterImpls ∧ State.reset.cfg.numFilterImpls ≤ (2 : BitVec 3).toNat := by
  decide
theorem witness_SelectionImmutable :
    (∃ t, exec (.firApply []) firLoaded = .next t) ∧ (∃ t, exec (.hbDecim []) hbLoaded = .next t) ∧
    (∃ t, exec (.filtSelect 1 1 true []) State.reset = .next t) ∧
    ∃ s : State, s.filt.lk = true ∧ (∀ rest, s.agenda ≠ .powerOn :: rest) ∧ (∃ t, exec (.resetAll []) s = .next t) ∧
      (∃ t, step s = .next t) ∧ { s with agenda := [.powerOn] }.agenda = .powerOn :: [] :=
  ⟨⟨_, rfl⟩, ⟨_, rfl⟩, ⟨_, rfl⟩, { State.reset with filt := { State.reset.filt with lk := true } }, rfl,
    by simp [State.reset, State.resetOf], ⟨_, rfl⟩, ⟨_, rfl⟩, rfl⟩
theorem witness_DlInsertResult : lineLoaded.dl.Ok lineLoaded.cfg := by decide
theorem witness_RingLaw :
    lineLoaded.dl.Ok lineLoaded.cfg ∧ lineLoaded.cfg.dlCapacity ≤ 4095 ∧
    (∀ i ∈ eightInserts, disturbsLine i = false) ∧ (∃ t, execAll eightInserts lineLoaded = .next t) ∧
    lineLoaded.cfg.dlCapacity ≤ (eightInserts.filterMap insertedSymbol).length :=
  ⟨by decide, by decide, by decide, ⟨_, rfl⟩, by decide⟩
theorem witness_DlUpdateAndAdjust :
    lineLoaded.dl.Ok lineLoaded.cfg ∧
    ([0] : List Word).length = ((8 : BitVec 12).toNat + 15) / 16 ∧ (8 : BitVec 12).toNat ≤ lineLoaded.cfg.dlCapacity ∧
    ([0] : List Word).length = ((9 : BitVec 12).toNat + 15) / 16 ∧ lineLoaded.cfg.dlCapacity < (9 : BitVec 12).toNat := by
  decide
theorem witness_DlExtractReturnsSymbols :
    (8 : BitVec 12).toNat + (0 : BitVec 12).toNat ≤ lineLoaded.cfg.dlCapacity ∧
    lineLoaded.cfg.dlCapacity < (8 : BitVec 12).toNat + (1 : BitVec 12).toNat := by decide
theorem witness_PointerLaw :
    1 ≤ Config.refcfg.dlCapacity ∧ (∃ t, step lineLoaded = .next t) ∧ lineLoaded.dl.ptr < lineLoaded.cfg.dlCapacity :=
  ⟨by decide, ⟨_, rfl⟩, by decide⟩
theorem witness_SyncLoadEffect :
    State.reset.sync.tpl[(1 : BitVec 4).toNat]? = some Template.reset ∧
    (1 : BitVec 4).toNat < State.reset.cfg.maxTemplates ∧ State.reset.cfg.maxTemplates ≤ (2 : BitVec 4).toNat ∧
    ([0] : List Word).length = ((8 : BitVec 7).toNat + 15) / 16 ∧
    (1 ≤ (8 : BitVec 7).toNat ∧ (8 : BitVec 7).toNat ≤ 64 ∧ (8 : BitVec 7).toNat ≤ State.reset.cfg.dlCapacity) ∧
    ([0] : List Word).length = ((9 : BitVec 7).toNat + 15) / 16 ∧
    ¬ (1 ≤ (9 : BitVec 7).toNat ∧ (9 : BitVec 7).toNat ≤ 64 ∧ (9 : BitVec 7).toNat ≤ State.reset.cfg.dlCapacity) ∧
    ([] : List Word).length = ((0 : BitVec 7).toNat + 15) / 16 ∧ ¬ (1 ≤ (0 : BitVec 7).toNat) := by decide
theorem witness_WindowDistance :
    ∃ t : Template, t ∈ (templateLoaded 1).sync.tpl ∧ t.ndib = [1, 3, 1, 3].length ∧ t.pat = expandDibits [1, 3, 1, 3] :=
  ⟨{ v := true, ndib := 4, tol := 1, pat := expandDibits [1, 3, 1, 3] }, by decide⟩
/-- No loaded slot, SYNC_MISS at `miss` and SYNC_LOSS_THR at `thr`. -/
def missing (miss thr : Word) : State :=
  { State.reset with
    sync := { State.reset.sync with miss := miss }, csr := { State.reset.csr with syncLossThr := thr } }
theorem none_matches {u : State} (h : u.sync.tpl = [Template.reset, Template.reset]) : ¬ ∃ k t, u.Matches k t := by
  rintro ⟨k, t, hk, hv, -⟩
  have := List.mem_of_getElem? hk
  rw [h] at this
  simp at this
  simp [this, Template.reset] at hv
/-- R214: the miss that raises SYNC_MISS to the threshold fires SYNC_LOST, at 2^32-1 too; "never again in that run. This holds
even at SYNC_MISS = 2^32-1". -/
theorem test_loss_fires_once :
    emits (missing 2 3) 0x30000100 0 [] [0x06300000, 1, 3] = true ∧
    emits (missing 0xFFFFFFFE 0xFFFFFFFF) 0x30000100 0 [] [0x06300000, 1, 0xFFFFFFFF] = true ∧
    emits (missing 0xFFFFFFFF 0xFFFFFFFF) 0x30000100 0 [] [] = true := by decide
/-- A slot that tolerates 127 bits; no loaded slot, with the threshold reached (at 3, and at 2^32-1 by the miss that saturates
the count), with the count saturated before, with threshold 0, and below the threshold. -/
theorem witness_CorrelationResult :
    (∃ u, exec (.dlInsert 3 false false []) (templateLoaded 127) = .next u ∧ ∃ k t, u.Matches k t) ∧
    (∀ m, m = missing 2 3 ∨ m = missing 0xFFFFFFFE 0xFFFFFFFF →
      ∃ u, exec (.dlInsert 3 false false []) m = .next u ∧ (¬ ∃ k t, u.Matches k t) ∧ u.csr.syncLossThr ≠ 0 ∧
        u.sync.miss ≠ 0xFFFFFFFF#32 ∧
        (if u.sync.miss = 0xFFFFFFFF#32 then u.sync.miss else u.sync.miss + 1) = u.csr.syncLossThr) ∧
    ∀ m, m = missing 0xFFFFFFFF 0xFFFFFFFF ∨ m = missing 0xFFFFFFFF 0 ∨ m = missing 0 3 →
      ∃ u, exec (.dlInsert 3 false false []) m = .next u ∧ (¬ ∃ k t, u.Matches k t) ∧
        (u.csr.syncLossThr = 0 ∨ u.sync.miss = 0xFFFFFFFF#32 ∨
          (if u.sync.miss = 0xFFFFFFFF#32 then u.sync.miss else u.sync.miss + 1) ≠ u.csr.syncLossThr) := by
  refine ⟨⟨_, rfl, 0, _, rfl, rfl, by decide⟩, ?_, ?_⟩
  · rintro m (rfl | rfl) <;> exact ⟨_, rfl, none_matches (by decide), by decide, by decide, by decide⟩
  · rintro m (rfl | rfl | rfl) <;> exact ⟨_, rfl, none_matches (by decide), by decide⟩
/-- Inserting 2 makes the window {1,3,1,2}, one bit away from {d:1313}: within tolerance 1, one past tolerance 0. -/
theorem witness_SyncThreshold :
    ∀ tol ∈ [1, 0], ∃ u t r, exec (.dlInsert 2 false false [])
        { templateLoaded tol with dl := { buf := [1, 3, 1, 3, 0, 1, 3, 1], ptr := 0 } } = .next u ∧
      exec (.dlInsert 2 true false [])
        { templateLoaded tol with dl := { buf := [1, 3, 1, 3, 0, 1, 3, 1], ptr := 0 } } = .next t ∧
      u.sync.tpl[0]? = some r ∧ r.v = true ∧ (∀ j q, u.sync.tpl[j]? = some q → q.v = true → j = 0) ∧
      u.distance r = 1 ∧ r.tol = tol ∧ u.sync.miss ≠ 0xFFFFFFFF#32 := by
  have only_first : ∀ (u : State) (r : Template), u.sync.tpl = [r, Template.reset] →
      ∀ j q, u.sync.tpl[j]? = some q → q.v = true → j = 0 := by
    rintro u r h (_ | _ | j) q hj hq
    · rfl
    · rw [h] at hj
      have : q = Template.reset := by simpa using hj.symm
      simp [this, Template.reset] at hq
    · simp [h] at hj
  intro tol h
  simp only [List.mem_cons, List.not_mem_nil, or_false] at h
  rcases h with rfl | rfl <;>
    exact ⟨_, _, { v := true, ndib := 4, tol := _, pat := expandDibits [1, 3, 1, 3] }, rfl, rfl, rfl, rfl,
      only_first _ _ rfl, by decide, rfl, by decide⟩
theorem witness_FecDecodeIsMaximumLikelihood :
    State.reset.cfg.trellisFlush < State.reset.cfg.trellisSteps ∧
    ([0xA7100000] : List Word).length = (State.reset.cfg.trellisSteps + 7) / 8 := by decide
theorem witness_FecRoundTrip :
    State.reset.cfg.legal = true ∧ State.reset.cfg.trellisSteps = 3 ∧ State.reset.cfg.trellisFlush = 1 ∧
    Admissible 4 3 1 [2, 1, 0] ∧ Admissible 8 3 1 [5, 3, 0] := by
  have flushed : ∀ a b : Nat, ∀ j, 3 - 1 ≤ j → [a, b, 0].getD j 0 = 0 := by
    rintro a b (_ | _ | _ | j) h <;> simp at h ⊢
  exact ⟨by decide, rfl, rfl, ⟨rfl, by decide, flushed 2 1⟩, ⟨rfl, by decide, flushed 5 3⟩⟩
theorem witness_FecCarryForward :
    State.reset.cfg.legal = true ∧ ([0xA7100000] : List Word).length = (State.reset.cfg.trellisSteps + 7) / 8 := by decide
/-- H2 is consistent; bit 37 of it explains its syndrome alone; two flipped bits are explained by none. -/
theorem witness_CrcHdrVerdict :
    syndrome Config.refcfg (headerOfWords h2) = 0 ∧
    syndrome Config.refcfg (flipBit (headerOfWords h2) 37) ≠ 0 ∧
    ((List.range 96).filter fun p => singleSyndrome Config.refcfg p = syndrome Config.refcfg (flipBit (headerOfWords h2) 37))
      = [37] ∧
    syndrome Config.refcfg (flipBit (flipBit (headerOfWords h2) 0) 95) ≠ 0 ∧
    ((List.range 96).filter fun p =>
      singleSyndrome Config.refcfg p = syndrome Config.refcfg (flipBit (flipBit (headerOfWords h2) 0) 95)) = [] := by
  decide +kernel
theorem witness_CrcCorrectsSingleBit :
    State.reset.cfg = Config.refcfg ∧ ((List.range 96).map (singleSyndrome Config.refcfg)).Nodup ∧
    (∀ q, q < 96 → singleSyndrome Config.refcfg q ≠ 0) ∧ syndrome Config.refcfg (headerOfWords h2) = 0 ∧ 95 < 96 :=
  ⟨rfl, by decide +kernel, by decide +kernel, by decide +kernel, by decide⟩
theorem witness_DoubleErrorsNeverMiscorrected :
    State.reset.cfg.crcPoly = 0x1021 ∧ State.reset.cfg.crcInit = 0 ∧ State.reset.cfg.crcXorout = 0xFFFF ∧
    syndrome State.reset.cfg (headerOfWords h2) = 0 ∧ 0 < 95 ∧ 95 < 96 := by decide +kernel
theorem witness_PsStartAndQuery :
    (headerOfWords h2 >>> 40).toNat % 128 ≠ 0 ∧ ((0 : Header) >>> 40).toNat % 128 = 0 := by decide
theorem witness_PsAddResult :
    ([0xDEADBEEF] : List Word).length = ((4 : BitVec 8).toNat + 3) / 4 ∧ State.reset.ps.state = .idle ∧
    (Sequencer.start 0 0).state = .complete ∧ started.ps.state = .headerReceived ∧
    started.ps.recv + 1 ≠ started.ps.decl ∧ oneBlock.ps.state = .accumulating ∧ oneBlock.ps.recv + 1 = oneBlock.ps.decl := by
  decide
theorem witness_PacketCompleteness :
    (threeBlocks >>> 40).toNat % 128 = 3 ∧ ([] : List Word).length = ((0 : BitVec 8).toNat + 3) / 4 ∧
    ∃ s0 s1 s2 s3 s4, exec (.psStart 0 (headerWords threeBlocks)) State.reset = .next s0 ∧
      exec (.psAdd 0 0 []) s0 = .next s1 ∧ exec (.psAdd 0 0 []) s1 = .next s2 ∧ exec (.psAdd 0 0 []) s2 = .next s3 ∧
      exec (.psAdd 0 0 []) s3 = .next s4 :=
  ⟨by decide, by decide, _, _, _, _, _, rfl, rfl, rfl, rfl, rfl⟩
theorem witness_SequencerBound : oneBlock.ps.Ok ∧ ∃ t, step oneBlock = .next t := ⟨by decide, _, rfl⟩
theorem witness_CsrAccessErrors :
    2 ≠ 4 ∧ (0x002 : BitVec 12).toNat % 4 ≠ 0 ∧ (0x108 : BitVec 12).toNat ∉ mappedOffsets ∧ State.reset.evq = [] := by
  decide
theorem witness_HostWrites :
    { State.reset with cmdq := List.replicate 63 0 }.cmdq.length < State.reset.cfg.cmdqDepth ∧
    (0x104 : BitVec 12).toNat ∈ mappedOffsets ∧
    (0x104 : BitVec 12).toNat ∉
      [0x00C, 0x010, 0x024, 0x040, 0x044, 0x048, 0x04C, 0x050, 0x054, 0x058, 0x060, 0x064, 0x068, 0x0B4] := by decide
theorem witness_HeldPushWaits :
    ∃ s : State, s.ca.isComplete = false ∧ s.cmdq = 7 :: List.replicate 63 0 ∧
      (List.replicate 63 (0 : Word)).length + 1 = s.cfg.cmdqDepth :=
  ⟨{ State.reset with cmdq := 7 :: List.replicate 63 0 }, rfl, rfl, rfl⟩
theorem witness_PopsDeliverEventsInOrder :
    ∃ s : State, s.evq = [1, 2] ++ [3] ∧
      s.agenda = List.replicate ([1, 2] : List Word).length (.host (.read 4 0x02C)) ++ [.engine] :=
  ⟨{ State.reset with evq := [1, 2, 3], agenda := [.host (.read 4 0x02C), .host (.read 4 0x02C), .engine] }, rfl, rfl⟩
theorem witness_ReadsAreIdempotent :
    ((0x0B8, 0x80000010) : BitVec 12 × Word) ∈ registerWords
      { State.reset with sync := { State.reset.sync with last := { valid := true, dist := 1, k := 0 } } } ∧
    (0x104 : BitVec 12).toNat ∈ mappedOffsets ∧ (0x104 : BitVec 12) ≠ 0x008 ∧ 2 ^ 32 - 1 < 2 ^ 32 ∧
    (0x008 : BitVec 12).toNat ∈ mappedOffsets ∧ (0x008 : BitVec 12) ≠ 0x02C ∧
    ∃ s : State, s.agenda = .host (.read 4 0x008) :: .host (.read 4 0x008) :: [] :=
  ⟨by decide, by decide, by decide, by decide, by decide, by decide,
    { State.reset with agenda := [.host (.read 4 0x008), .host (.read 4 0x008)] }, rfl⟩
theorem witness_PowerOnValues :
    ((0x104, 0) : BitVec 12 × Word) ∈ powerOnWords Config.refcfg ∧
    { started with agenda := [.powerOn] }.agenda = .powerOn :: [] := by decide

end Sys2Proof.Tests
end

section
/-! PROOFS. Packing into words and reading back: message bits, dibits, octets and headers. -/

namespace Sys2Proof.Machine

/-! ## Packing: bits, dibits, octets and headers -/

theorem messageNat_concat (m : Message) (b : Bool) : messageNat (m ++ [b]) = 2 * messageNat m + b.toNat := by
  simp [messageNat]

/-- Bit `i` of a message's number, counted from its least significant end, is the message's `i`-th bit from its end. -/
theorem messageNat_testBit (m : Message) (i : Nat) : (messageNat m).testBit i = m.reverse.getD i false := by
  induction m using List.reverseRecOn generalizing i with
  | nil => simp [messageNat]
  | append_singleton m b ih =>
    rw [messageNat_concat]
    cases i with
    | zero => cases b <;> simp [Nat.testBit_zero]
    | succ i =>
      have half : (2 * messageNat m + b.toNat) / 2 = messageNat m := by have := b.toNat_lt; omega
      simp [Nat.testBit_succ, half, ih]

theorem wordOfBits_getMsbD (m : Message) (k : Nat) {i : Nat} (hi : i < 32) :
    (wordOfBits m k).getMsbD i = m.getD (32 * k + i) false := by
  rw [wordOfBits, BitVec.getMsbD_eq_getLsbD, BitVec.getLsbD_ofNat, messageNat_testBit]
  have hlsb : 31 - i < 32 := by omega
  have hrev : 31 - (31 - i) = i := by omega
  simp [hi, hlsb, hrev]

theorem ceilDiv_lt {n b j : Nat} (hb : 0 < b) (hj : j < n) : j / b < ceilDiv n b := by
  rw [ceilDiv, Nat.lt_iff_add_one_le, Nat.le_div_iff_mul_le hb]
  have := Nat.div_mul_le_self j b
  rw [Nat.add_mul]; omega

/-- Message bit `j` read back from the packed words (R9). -/
theorem bitAt_packBits (m : Message) {j : Nat} (hj : j < m.length) : bitAt (packBits m) j = m.getD j false := by
  have hk : j / 32 < ceilDiv m.length 32 := ceilDiv_lt (by decide) hj
  have hword : (packBits m).getD (j / 32) 0 = wordOfBits m (j / 32) := by simp [packBits, hk]
  rw [bitAt, hword, wordOfBits_getMsbD _ _ (Nat.mod_lt _ (by decide)), Nat.div_add_mod]

theorem unpackBits_packBits (m : Message) : unpackBits m.length (packBits m) = m := by
  refine List.ext_getElem (by simp) fun j _ hj => ?_
  simp [unpackBits, bitAt_packBits m hj, hj]

/-- A packed dibit is the two message bits of its bit expansion (R10). -/
theorem dibitAt_bits (ws : List Word) (j : Nat) :
    expandDibit (dibitAt ws j) = [bitAt ws (2 * j), bitAt ws (2 * j + 1)] := by
  have hword : 2 * j / 32 = j / 16 ∧ (2 * j + 1) / 32 = j / 16 := by omega
  have hbit : 2 * j % 32 = 2 * (j % 16) ∧ (2 * j + 1) % 32 = 2 * (j % 16) + 1 := by omega
  have hlt : 2 * (j % 16) + 1 < 32 := by omega
  simp only [expandDibit, dibitAt, bitAt, hword, hbit, BitVec.getLsbD_extractLsb', BitVec.getMsbD]
  simp [show 2 * (j % 16) < 32 by omega, hlt, show 30 - 2 * (j % 16) + 1 = 31 - 2 * (j % 16) by omega,
    show 31 - (2 * (j % 16) + 1) = 30 - 2 * (j % 16) by omega]

theorem expandDibit_injective {a b : Dibit} (h : expandDibit a = expandDibit b) : a = b := by
  revert a b; decide

/-- The bits of dibit `j` stand at `2j` and `2j + 1` of the expansion (R10). -/
theorem expandDibits_getD (ds : List Dibit) {j : Nat} (hj : j < ds.length) :
    [(expandDibits ds).getD (2 * j) false, (expandDibits ds).getD (2 * j + 1) false] = expandDibit ds[j] := by
  induction ds generalizing j with
  | nil => simp at hj
  | cons d ds ih =>
    cases j with
    | zero => simp [expandDibits, expandDibit]
    | succ j => simpa [expandDibits, expandDibit, Nat.mul_succ] using ih (by simpa using hj)

theorem unpackDibits_packDibits (ds : List Dibit) : unpackDibits ds.length (packDibits ds) = ds := by
  refine List.ext_getElem (by simp) fun j _ hj => expandDibit_injective ?_
  have hbits : 2 * j + 1 < (expandDibits ds).length := by simp; omega
  simp only [unpackDibits, List.getElem_map, List.getElem_range]
  rw [dibitAt_bits, packDibits, bitAt_packBits _ (by omega), bitAt_packBits _ hbits, expandDibits_getD ds hj]

theorem unpackBits_packDibits (ds : List Dibit) : unpackBits (2 * ds.length) (packDibits ds) = expandDibits ds := by
  rw [packDibits, ← expandDibits_length, unpackBits_packBits]

/-- Octet `i` of a packed word, octet 0 most significant (R265). -/
theorem wordOfOctets_extract (os : List Octet) (k : Nat) {i : Nat} (hi : i < 4) :
    (wordOfOctets os k).extractLsb' (24 - 8 * i) 8 = os.getD (4 * k + i) 0 := by
  unfold wordOfOctets
  obtain rfl | rfl | rfl | rfl : i = 0 ∨ i = 1 ∨ i = 2 ∨ i = 3 := by omega
  · rw [BitVec.extractLsb'_append_eq_of_le (by decide), BitVec.extractLsb'_append_eq_of_le (by decide)]
    exact BitVec.extractLsb'_append_eq_left
  · rw [BitVec.extractLsb'_append_eq_of_le (by decide), BitVec.extractLsb'_append_eq_of_le (by decide)]
    exact BitVec.extractLsb'_append_eq_right
  · rw [BitVec.extractLsb'_append_eq_of_le (by decide)]
    exact BitVec.extractLsb'_append_eq_right
  · exact BitVec.extractLsb'_append_eq_right

theorem unpackOctets_packOctets (os : List Octet) : unpackOctets os.length (packOctets os) = os := by
  refine List.ext_getElem (by simp) fun j _ hj => ?_
  have hk : j / 4 < ceilDiv os.length 4 := ceilDiv_lt (by decide) hj
  have hword : (packOctets os).getD (j / 4) 0 = wordOfOctets os (j / 4) := by simp [packOctets, hk]
  simp only [unpackOctets, List.getElem_map, List.getElem_range, octetAt]
  rw [hword, wordOfOctets_extract _ _ (Nat.mod_lt _ (by decide)), Nat.div_add_mod]
  simp [hj]

theorem headerOfWords_headerWords (m : Header) : headerOfWords (headerWords m) = m := by
  change m.extractLsb' 64 32 ++ m.extractLsb' 32 32 ++ m.extractLsb' 0 32 = m
  rw [BitVec.extractLsb'_append_extractLsb'_eq_extractLsb' (by rfl),
    BitVec.extractLsb'_append_extractLsb'_eq_extractLsb' (by rfl)]
  exact BitVec.extractLsb'_eq_self

/-- Settles O16: each format is read back element by element. -/
theorem packingRoundTrips : Obligations.PackingRoundTrips :=
  ⟨unpackDibits_packDibits, unpackBits_packBits, unpackOctets_packOctets, headerOfWords_headerWords,
    unpackBits_packDibits⟩

end Sys2Proof.Machine
end

section
/-! PROOFS. Binary32 arithmetic: the magnitude codes in order, one rounding to nearest with ties to even, the operations. -/

namespace Sys2Proof.Machine.F32

/-! ## Magnitude codes -/

/-- The code `e * 2^23 + q`: below `2^24` units a code is its own value, from there on `q` is a significand of 24 bits, or
the next power of two. -/
theorem units_code {e q : Nat} (hlo : e = 0 ∨ 2 ^ 23 ≤ q) (hhi : q ≤ 2 ^ 24) : units (e * 2 ^ 23 + q) = q * 2 ^ e := by
  unfold units
  rcases lt_or_ge q (2 ^ 23) with hq | hq
  · have he : e = 0 := by omega
    rw [if_pos (by omega), he]; omega
  rw [if_neg (by omega), Nat.shiftLeft_eq]
  rcases eq_or_lt_of_le hhi with rfl | hq'
  · rw [show (e * 2 ^ 23 + 2 ^ 24) % 2 ^ 23 = 0 by omega, show (e * 2 ^ 23 + 2 ^ 24) / 2 ^ 23 - 1 = e + 1 by omega]
    ring
  · rw [show (e * 2 ^ 23 + q) % 2 ^ 23 = q - 2 ^ 23 by omega, show (e * 2 ^ 23 + q) / 2 ^ 23 - 1 = e by omega,
      Nat.add_sub_cancel' hq]

/-- Every code is of that form. -/
theorem exists_code (k : Nat) : ∃ e q, k = e * 2 ^ 23 + q ∧ (e = 0 ∨ 2 ^ 23 ≤ q) ∧ q < 2 ^ 24 := by
  rcases lt_or_ge k (2 ^ 23) with hk | hk
  · exact ⟨0, k, by omega⟩
  · exact ⟨k / 2 ^ 23 - 1, k % 2 ^ 23 + 2 ^ 23, by omega⟩

theorem units_lt_succ (k : Nat) : units k < units (k + 1) := by
  obtain ⟨e, q, rfl, hlo, hhi⟩ := exists_code k
  rw [units_code hlo hhi.le, Nat.add_assoc, units_code (by omega) hhi]
  exact Nat.mul_lt_mul_of_pos_right (Nat.lt_succ_self q) (by positivity)

theorem units_strictMono : StrictMono units := strictMono_nat_of_lt_succ units_lt_succ

@[simp] theorem units_zero : units 0 = 0 := rfl

theorem units_pos {k : Nat} (h : k ≠ 0) : 0 < units k := units_strictMono (Nat.pos_of_ne_zero h)

/-- From code `e * 2^23` on, or everywhere with `e = 0`, values are whole multiples of `2^e`. -/
theorem dvd_units {e k : Nat} (h : e = 0 ∨ (e + 1) * 2 ^ 23 ≤ k) : 2 ^ e ∣ units k := by
  obtain ⟨e', q, rfl, hlo, hhi⟩ := exists_code k
  rw [units_code hlo hhi.le]
  exact Dvd.dvd.mul_left (pow_dvd_pow 2 (by omega)) q

/-! ## Rounding a quotient to an integer -/

/-- `num / d` rounded to the nearest integer, ties to even: the rounded significand of `roundMag`. -/
def roundQuot (num d : Nat) : Nat :=
  if d < 2 * (num % d) || (2 * (num % d) = d && num / d % 2 = 1) then num / d + 1 else num / d

/-- The two ways the rounding goes, with what decides between them. -/
theorem roundQuot_cases (num d : Nat) :
    (roundQuot num d = num / d ∧ 2 * (num % d) ≤ d ∧ (2 * (num % d) = d → num / d % 2 = 0)) ∨
      (roundQuot num d = num / d + 1 ∧ d ≤ 2 * (num % d) ∧ (2 * (num % d) = d → num / d % 2 = 1)) := by
  unfold roundQuot
  split
  · next h => simp at h; right; omega
  · next h => simp at h; left; omega

/-- `k` is at least as near to `x` as `j`, and is even where a different `j` is as near. -/
def NearerEven (x k j : Int) (even : Prop) : Prop :=
  (k - x).natAbs ≤ (j - x).natAbs ∧ ((k - x).natAbs = (j - x).natAbs → j ≠ k → even)

/-- A multiple of `d` is one of the two next to `q * d + r`, or lies a whole `d` beyond them. -/
theorem multiple_cases (q d : Nat) (m : Int) :
    m * d = q * d ∨ m * d = q * d + d ∨ m * d + d ≤ q * d ∨ (q * d : Int) + 2 * d ≤ m * d := by
  have hd : (0 : Int) ≤ d := by omega
  have below : m + 1 ≤ q → (m + 1) * d ≤ q * d := (Int.mul_le_mul_of_nonneg_right · hd)
  have above : (q : Int) + 2 ≤ m → ((q : Int) + 2) * d ≤ m * d := (Int.mul_le_mul_of_nonneg_right · hd)
  rw [Int.add_mul] at below above
  obtain h | h | h | h : m = q ∨ m = q + 1 ∨ m + 1 ≤ q ∨ (q : Int) + 2 ≤ m := by omega
  · exact .inl (by rw [h])
  · exact .inr (.inl (by rw [h]; ring))
  · exact .inr (.inr (.inl (by linarith [below h])))
  · exact .inr (.inr (.inr (above h)))

/-- No multiple of `d` is nearer to `num`, and one as near only where the rounded quotient is even. -/
theorem roundQuot_nearest {num d : Nat} (hd : 0 < d) (m : Int) :
    NearerEven num (roundQuot num d * d : Nat) (m * d) (roundQuot num d % 2 = 0) := by
  have hr : num % d < d := Nat.mod_lt _ hd
  have hnum : (num : Int) = (num / d : Nat) * d + (num % d : Nat) := mod_cast (Nat.div_add_mod' num d).symm
  have hm := multiple_cases (num / d) d m
  have hq := roundQuot_cases num d
  generalize num / d = q at *
  generalize num % d = r at *
  generalize (m * d : Int) = j at *
  have hup : (((q + 1) * d : Nat) : Int) = q * d + d := by push_cast; ring
  unfold NearerEven
  obtain ⟨hk, h2, heven⟩ | ⟨hk, h2, hodd⟩ := hq <;> rw [hk]
  · push_cast; omega
  · rw [hup]; omega

/-! ## `roundMag` -/

/-- The exponent field that `roundMag` chooses. -/
def roundExp (num den : Nat) : Nat := (num / den).log2 - 23

/-- The code that `roundMag` computes before it cuts off at the infinity. -/
def roundCode (num den : Nat) : Nat := roundExp num den * 2 ^ 23 + roundQuot num (den * 2 ^ roundExp num den)

theorem roundMag_eq (num den : Nat) : roundMag num den = min (roundCode num den) infMag := by
  simp only [roundMag, roundCode, roundExp, roundQuot, Nat.shiftLeft_eq]
  congr

/-- The significand before rounding is in the range of the exponent chosen. -/
theorem significand_bounds (num den : Nat) :
    (roundExp num den = 0 ∨ 2 ^ 23 ≤ num / (den * 2 ^ roundExp num den)) ∧
      num / (den * 2 ^ roundExp num den) < 2 ^ 24 := by
  have hlt : num / den < 2 ^ ((num / den).log2 + 1) := Nat.lt_log2_self
  rw [← Nat.div_div_eq_div_mul]
  constructor
  · by_cases he : roundExp num den = 0
    · exact .inl he
    have hne : num / den ≠ 0 := by rintro h; simp [roundExp, h] at he
    rw [Nat.le_div_iff_mul_le (by positivity), ← pow_add]
    exact .inr ((Nat.pow_le_pow_right (by decide) (by unfold roundExp at *; omega)).trans (Nat.log2_self_le hne))
  · rw [Nat.div_lt_iff_lt_mul (by positivity), ← pow_add]
    exact hlt.trans_le (Nat.pow_le_pow_right (by decide) (by unfold roundExp; omega))

theorem units_roundCode (num den : Nat) :
    units (roundCode num den) * den =
      roundQuot num (den * 2 ^ roundExp num den) * (den * 2 ^ roundExp num den) := by
  obtain ⟨hlo, hhi⟩ := significand_bounds num den
  have hq := roundQuot_cases num (den * 2 ^ roundExp num den)
  rw [roundCode, units_code (by omega) (by omega)]
  ring

/-- No code's value is nearer to `num / den` units than the rounded code's, and one as near only where that is even. -/
theorem roundCode_nearest {num den : Nat} (hden : 0 < den) (j : Nat) :
    NearerEven num (units (roundCode num den) * den : Nat) (units j * den : Nat) (roundCode num den % 2 = 0) := by
  have heven : roundCode num den % 2 = roundQuot num (den * 2 ^ roundExp num den) % 2 := by unfold roundCode; omega
  rw [heven, units_roundCode]
  have hd : 0 < den * 2 ^ roundExp num den := by positivity
  have hnear := roundQuot_nearest (num := num) hd
  by_cases hj : roundExp num den = 0 ∨ (roundExp num den + 1) * 2 ^ 23 ≤ j
  · obtain ⟨m, hm⟩ := dvd_units hj
    have hmul : (units j * den : Nat) = (m : Int) * (den * 2 ^ roundExp num den : Nat) := by rw [hm]; push_cast; ring
    rw [hmul]
    exact hnear m
  · have hsmall : units j < 2 ^ 23 * 2 ^ roundExp num den := by
      rw [← units_code (.inr le_rfl) (by decide)]
      exact units_strictMono (by omega)
    have hj' : units j * den < 2 ^ 23 * (den * 2 ^ roundExp num den) := by
      rw [Nat.mul_comm den, ← Nat.mul_assoc]
      exact Nat.mul_lt_mul_of_pos_right hsmall hden
    have hnum : 2 ^ 23 * (den * 2 ^ roundExp num den) ≤ num := by
      have hlo := (significand_bounds num den).1
      exact (Nat.le_div_iff_mul_le hd).mp (by omega)
    obtain ⟨hle, -⟩ := hnear (2 ^ 23)
    unfold NearerEven
    generalize den * 2 ^ roundExp num den = d at *
    generalize units j * den = u at *
    generalize roundQuot num d * d = v at *
    omega

/-- The rounded code is finite exactly below the overflow threshold, which is the midpoint of the last finite value and the
next power of two. -/
theorem roundCode_lt_infMag_iff {num den : Nat} (hden : 0 < den) :
    roundCode num den < infMag ↔ num < overflowUnits * den := by
  have hinf : units infMag * den = 2 ^ 25 * (2 ^ 252 * den) := by
    rw [show infMag = 253 * 2 ^ 23 + 2 ^ 24 from rfl, units_code (.inr (by decide)) le_rfl]; ring
  have hmax : units (infMag - 1) * den = (2 ^ 25 - 2) * (2 ^ 252 * den) := by
    rw [show infMag - 1 = 253 * 2 ^ 23 + (2 ^ 24 - 1) from rfl, units_code (.inr (by decide)) (by decide)]; ring
  have hover : overflowUnits * den = (2 ^ 25 - 1) * (2 ^ 252 * den) := by unfold overflowUnits; ring
  have hpos : 0 < 2 ^ 252 * den := by positivity
  obtain ⟨hleInf, hevenInf⟩ := roundCode_nearest (num := num) hden infMag
  obtain ⟨hleMax, -⟩ := roundCode_nearest (num := num) hden (infMag - 1)
  have hmono (k : Nat) : units k * den ≤ units (roundCode num den) * den ↔ k ≤ roundCode num den :=
    (Nat.mul_le_mul_right_iff hden).trans units_strictMono.le_iff_le
  have hge := hmono infMag
  have hodd : (infMag - 1) % 2 = 1 := by decide
  have heq : units (roundCode num den) * den = units (infMag - 1) * den → roundCode num den = infMag - 1 :=
    fun h => units_strictMono.injective (Nat.eq_of_mul_eq_mul_right hden h)
  have hle : roundCode num den < infMag → units (roundCode num den) * den ≤ units (infMag - 1) * den := fun h =>
    Nat.mul_le_mul_right _ (units_strictMono.monotone (by omega))
  rw [hinf] at *
  rw [hmax] at *
  rw [hover]
  generalize units (roundCode num den) * den = u at *
  generalize 2 ^ 252 * den = half at *
  omega

theorem roundMag_of_lt {num den : Nat} (hden : 0 < den) (h : num < overflowUnits * den) :
    roundMag num den = roundCode num den := by
  rw [roundMag_eq, Nat.min_eq_left ((roundCode_lt_infMag_iff hden).mpr h).le]

theorem roundMag_of_ge {num den : Nat} (hden : 0 < den) (h : overflowUnits * den ≤ num) : roundMag num den = infMag := by
  rw [roundMag_eq, Nat.min_eq_right (Nat.le_of_not_lt ((roundCode_lt_infMag_iff hden).not.mpr (Nat.not_lt.mpr h)))]

theorem roundMag_le_infMag (num den : Nat) : roundMag num den ≤ infMag := by
  rw [roundMag_eq]; exact Nat.min_le_right _ _

/-! ## Signs and values -/

@[simp] theorem sign_make (neg : Bool) (m : Nat) : sign (make neg m) = neg := by
  rw [sign, make, BitVec.msb_append]; simp

theorem mag_make (neg : Bool) {m : Nat} (h : m ≤ infMag) : mag (make neg m) = m := by
  unfold mag make
  rw [BitVec.extractLsb'_append_eq_right, BitVec.toNat_ofNat]
  exact Nat.mod_eq_of_lt (h.trans_lt (by decide))

/-- A value is its magnitude's or the negative of it, as the sign bit says. -/
theorem value_cases (a : Word) :
    (sign a = false ∧ value a = units (mag a)) ∨ (sign a = true ∧ value a = -units (mag a)) := by
  cases h : sign a <;> simp [value, h]

theorem natAbs_value (a : Word) : (value a).natAbs = units (mag a) := by
  obtain ⟨-, h⟩ | ⟨-, h⟩ := value_cases a <;> simp [h]

theorem value_eq_zero_iff (a : Word) : value a = 0 ↔ mag a = 0 := by
  rw [← Int.natAbs_eq_zero, natAbs_value]
  exact ⟨fun h => by by_contra hne; exact (units_pos hne).ne' h, fun h => by simp [h]⟩

theorem sign_eq_decide {a : Word} (h : value a ≠ 0) : sign a = decide (value a < 0) := by
  obtain ⟨hs, hv⟩ | ⟨hs, hv⟩ := value_cases a
  · simp [hs, hv]
  · rw [hs, eq_comm, decide_eq_true_iff]; omega

@[simp] theorem sign_neg (a : Word) : sign (neg a) = !sign a := by
  rw [sign, neg, BitVec.msb_xor, show (0x80000000#32).msb = true by decide, Bool.xor_true, sign]

@[simp] theorem mag_neg (a : Word) : mag (neg a) = mag a := by
  simp [mag, neg, BitVec.extractLsb'_xor]

@[simp] theorem value_neg (a : Word) : value (neg a) = -value a := by
  cases h : sign a <;> simp [value, h]

@[simp] theorem finite_neg (a : Word) : finite (neg a) = finite a := by simp [finite]

theorem finite_iff (a : Word) : finite a = true ↔ mag a < infMag := by simp [finite]

theorem not_nan_of_finite {a : Word} (h : finite a = true) : isNaN a = false := by
  rw [finite_iff] at h; simp [isNaN]; omega

theorem not_inf_of_finite {a : Word} (h : finite a = true) : isInf a = false := by
  rw [finite_iff] at h; simp [isInf]; omega

/-! ## One rounding of an exact value -/

/-- Nearest among magnitudes is nearest among signed values, when the sign is the exact value's. -/
theorem nearerEven_of_natAbs {num r c : Int} {neg : Bool} {even : Prop}
    (hneg : num ≠ 0 → neg = decide (num < 0)) (hr : r = if neg then -(r.natAbs : Int) else r.natAbs)
    (h : NearerEven num.natAbs r.natAbs c.natAbs even) (h0 : NearerEven num.natAbs r.natAbs 0 even) :
    NearerEven num r c even := by
  unfold NearerEven at *
  have hsign : (0 ≤ num ∧ 0 ≤ r) ∨ (num ≤ 0 ∧ r ≤ 0) := by
    rcases eq_or_ne num 0 with h0 | h0
    · omega
    · rw [hneg h0] at hr
      simp only [decide_eq_true_eq] at hr
      split at hr <;> omega
  refine ⟨by omega, fun htie hne => ?_⟩
  by_cases hrc : c.natAbs = r.natAbs
  · omega
  · exact h.2 (by omega) (by omega)

/-- The word of the exact value's sign and its rounded magnitude is the rounded value; an exact zero may have either sign. -/
theorem rounds_make {num : Int} {den : Nat} {neg : Bool} (hden : 0 < den) (hneg : num ≠ 0 → neg = decide (num < 0)) :
    Rounds num den (make neg (roundMag num.natAbs den)) := by
  unfold Rounds
  split
  case isTrue hover =>
    have hne : num ≠ 0 := by
      rintro rfl
      exact absurd hover (Nat.not_le.mpr (Nat.mul_pos (by decide) hden))
    rw [roundMag_of_ge hden hover, hneg hne]
    by_cases hlt : num < 0 <;> simp [hlt] <;> rfl
  case isFalse hover =>
    have hmag := mag_make neg (roundMag_le_infMag num.natAbs den)
    have hlt : roundCode num.natAbs den < infMag := (roundCode_lt_infMag_iff hden).mpr (Nat.not_le.mp hover)
    rw [roundMag_of_lt hden (Nat.not_le.mp hover)] at *
    refine ⟨by rw [finite_iff, hmag]; exact hlt, fun c _ => ?_⟩
    generalize hr : make neg (roundCode num.natAbs den) = r at *
    have hnatAbs (w : Word) : (value w * den).natAbs = units (mag w) * den := by simp [Int.natAbs_mul, natAbs_value]
    have hsign : value r * den = if neg then -((value r * den).natAbs : Int) else (value r * den).natAbs := by
      rw [hnatAbs, ← hr]; cases neg <;> simp [value]
    have hnear (j : Nat) := roundCode_nearest (num := num.natAbs) hden j
    simp only [← hmag, ← hnatAbs r] at hnear
    obtain ⟨hle, heven⟩ := nearerEven_of_natAbs hneg hsign (hnatAbs c ▸ hnear (mag c)) (by simpa using hnear 0)
    exact ⟨hle, fun htie hne => heven htie fun h => hne (Int.eq_of_mul_eq_mul_right (by omega) h)⟩

/-! ## The operations -/

theorem add_of_finite {a b : Word} (ha : finite a = true) (hb : finite b = true) :
    add a b =
      if value a + value b = 0 then make (sign a && sign b) 0
      else make (value a + value b < 0) (roundMag (value a + value b).natAbs 1) := by
  simp [add, not_nan_of_finite, not_inf_of_finite, ha, hb]

theorem mul_of_finite {a b : Word} (ha : finite a = true) (hb : finite b = true) :
    mul a b = make (sign a != sign b) (roundMag (units (mag a) * units (mag b)) (2 ^ 149)) := by
  simp [mul, not_nan_of_finite, not_inf_of_finite, ha, hb]

theorem div_of_finite {a b : Word} (ha : finite a = true) (hb : finite b = true) (h : value b ≠ 0) :
    div a b = make (sign a != sign b) (roundMag (units (mag a) * 2 ^ 149) (units (mag b))) := by
  simp [div, not_nan_of_finite, not_inf_of_finite, ha, hb, (value_eq_zero_iff b).not.mp h]

theorem roundMag_zero {den : Nat} (hden : 0 < den) : roundMag 0 den = 0 := by
  have hlt : 0 < overflowUnits * den := Nat.mul_pos (by decide) hden
  rw [roundMag_of_lt hden hlt]
  simp [roundCode, roundExp, roundQuot, hden.ne]

theorem rounds_add {a b : Word} (ha : finite a = true) (hb : finite b = true) :
    Rounds (value a + value b) 1 (add a b) := by
  rw [add_of_finite ha hb]
  split
  case isTrue h =>
    rw [h, ← roundMag_zero one_pos]
    exact rounds_make one_pos (absurd rfl)
  case isFalse h => exact rounds_make one_pos fun _ => rfl

theorem rounds_sub {a b : Word} (ha : finite a = true) (hb : finite b = true) :
    Rounds (value a - value b) 1 (sub a b) := by
  have h := rounds_add ha ((finite_neg b).trans hb)
  rwa [value_neg, ← sub_eq_add_neg] at h

/-- The signs differ exactly when a product that is not zero is negative. -/
theorem bne_sign_eq {a b : Word} (ha : value a ≠ 0) (hb : value b ≠ 0) :
    (sign a != sign b) = decide (value a * value b < 0) := by
  rw [sign_eq_decide ha, sign_eq_decide hb, Bool.eq_iff_iff, bne_iff_ne, ne_eq, decide_eq_decide, decide_eq_true_iff,
    mul_neg_iff]
  omega

theorem rounds_mul {a b : Word} (ha : finite a = true) (hb : finite b = true) :
    Rounds (value a * value b) (2 ^ 149) (mul a b) := by
  rw [mul_of_finite ha hb, ← natAbs_value, ← natAbs_value, ← Int.natAbs_mul]
  exact rounds_make (by positivity) fun h => bne_sign_eq (left_ne_zero_of_mul h) (right_ne_zero_of_mul h)

theorem rounds_div {a b : Word} (ha : finite a = true) (hb : finite b = true) (h : value b ≠ 0) :
    Rounds (value a * 2 ^ 149 * (value b).sign) (value b).natAbs (div a b) := by
  have hnatAbs : (value a * 2 ^ 149 * (value b).sign).natAbs = units (mag a) * 2 ^ 149 := by
    simp [Int.natAbs_mul, natAbs_value, Int.natAbs_sign_of_ne_zero h]
  rw [div_of_finite ha hb h, ← hnatAbs, ← natAbs_value b]
  refine rounds_make (by omega) fun hne => ?_
  have ha0 : value a ≠ 0 := left_ne_zero_of_mul (left_ne_zero_of_mul hne)
  rw [bne_sign_eq ha0 h, decide_eq_decide]
  obtain hb0 | hb0 := lt_or_gt_of_ne h
  · rw [mul_neg_iff, Int.sign_eq_neg_one_of_neg hb0]; omega
  · rw [mul_neg_iff, Int.sign_eq_one_of_pos hb0]; omega

theorem rounds_ofNat (n : Nat) : Rounds (n * 2 ^ 149) 1 (ofNat n) := by
  have h := rounds_make (num := n * 2 ^ 149) (neg := false) one_pos fun _ => by simp
  rwa [Int.natAbs_mul, Int.natAbs_natCast] at h

/-! ## The square root -/

/-- The bits chosen so far and those still to choose enclose the root. -/
theorem isqrtFrom_eq_sqrt {n k acc : Nat} (hlo : acc * acc ≤ n) (hhi : n < (acc + 2 ^ k) * (acc + 2 ^ k)) :
    isqrtFrom n k acc = Nat.sqrt n := by
  induction k generalizing acc with
  | zero => exact Nat.eq_sqrt.mpr ⟨hlo, hhi⟩
  | succ k ih =>
    rw [pow_succ] at hhi
    unfold isqrtFrom
    split
    case isTrue h => exact ih h (by rwa [Nat.add_assoc, ← Nat.mul_two])
    case isFalse h => exact ih hlo (Nat.not_le.mp h)

/-- Twice the integer root of `n`, and one half-unit more where the root is not whole: the value that `sqrt` rounds. -/
def stickyRoot (n : Nat) : Nat := if Nat.sqrt n * Nat.sqrt n = n then 2 * Nat.sqrt n else 2 * Nat.sqrt n + 1

theorem units_lt {k : Nat} (h : k < infMag) : units k < 2 ^ 24 * 2 ^ 253 := by
  rw [← units_code (.inr (by decide)) le_rfl]
  exact units_strictMono h

theorem sqrt_of_pos {a : Word} (ha : finite a = true) (hpos : 0 < value a) :
    sqrt a = make false (roundMag (stickyRoot (units (mag a) * 2 ^ 149)) 2) := by
  have hmag : mag a ≠ 0 := (value_eq_zero_iff a).not.mp hpos.ne'
  have hsign : sign a = false := (sign_eq_decide hpos.ne').trans (decide_eq_false hpos.not_gt)
  have hroot : isqrtFrom (units (mag a) * 2 ^ 149) 214 0 = Nat.sqrt (units (mag a) * 2 ^ 149) := by
    refine isqrtFrom_eq_sqrt (Nat.zero_le _) ?_
    have := units_lt ((finite_iff a).mp ha)
    omega
  simp only [sqrt, not_nan_of_finite ha, not_inf_of_finite ha, hmag, hsign, hroot, stickyRoot, if_false,
    Bool.false_eq_true]

/-- A number not above twice the root of `n` by the sticky comparison is not above it. -/
theorem sq_le_of_le_stickyRoot {n m : Nat} (h : m ≤ stickyRoot n) (htie : m = stickyRoot n → m % 2 = 0) :
    m ^ 2 ≤ 4 * n := by
  have hm : m ≤ 2 * Nat.sqrt n := by unfold stickyRoot at h htie; split at h <;> simp_all; omega
  calc m ^ 2 ≤ (2 * Nat.sqrt n) ^ 2 := Nat.pow_le_pow_left hm 2
    _ = 4 * Nat.sqrt n ^ 2 := by ring
    _ ≤ 4 * n := Nat.mul_le_mul_left 4 (Nat.sqrt_le' n)

/-- A number not below twice the root of `n` by the sticky comparison is not below it. -/
theorem le_sq_of_stickyRoot_le {n m : Nat} (h : stickyRoot n ≤ m) (htie : m = stickyRoot n → m % 2 = 0) :
    4 * n ≤ m ^ 2 := by
  unfold stickyRoot at h htie
  split at h
  case isTrue hsq =>
    calc 4 * n = (2 * Nat.sqrt n) ^ 2 := by rw [← hsq]; simp; ring
      _ ≤ m ^ 2 := Nat.pow_le_pow_left h 2
  case isFalse hsq =>
    have hm : 2 * (Nat.sqrt n + 1) ≤ m := by simp [hsq] at htie; omega
    calc 4 * n ≤ 4 * (Nat.sqrt n + 1) ^ 2 := Nat.mul_le_mul_left 4 (Nat.lt_succ_sqrt' n).le
      _ = (2 * (Nat.sqrt n + 1)) ^ 2 := by ring
      _ ≤ m ^ 2 := Nat.pow_le_pow_left hm 2

/-- The root of a positive value is far from both ends of the format. -/
theorem stickyRoot_bounds {u : Nat} (h0 : 0 < u) (h : u < 2 ^ 24 * 2 ^ 253) :
    2 ^ 75 ≤ stickyRoot (u * 2 ^ 149) ∧ stickyRoot (u * 2 ^ 149) < overflowUnits * 2 := by
  have hlo : 2 ^ 74 ≤ Nat.sqrt (u * 2 ^ 149) := Nat.le_sqrt.mpr (by omega)
  have hhi : Nat.sqrt (u * 2 ^ 149) < 2 ^ 214 := Nat.sqrt_lt.mpr (by omega)
  unfold stickyRoot overflowUnits
  split <;> omega

/-- From `2^24` units on the spacing is two units or more. -/
theorem even_value {w : Word} (h : 2 ^ 24 ≤ value w) : value w % 2 = 0 := by
  obtain ⟨-, hv⟩ | ⟨-, hv⟩ := value_cases w
  · have hunits : units (2 ^ 24) = 2 ^ 24 := units_code (e := 0) (.inl rfl) le_rfl
    have hmag : 2 ^ 24 ≤ mag w := units_strictMono.le_iff_le.mp (by omega)
    obtain ⟨m, hm⟩ := dvd_units (e := 1) (k := mag w) (.inr hmag)
    omega
  · omega

/-- Below the overflow threshold a rounded value is finite and nearest. -/
theorem Rounds.nearest {num : Int} {den : Nat} {r : Word} (h : Rounds num den r)
    (hlt : num.natAbs < overflowUnits * den) :
    finite r = true ∧ ∀ c, finite c = true → (value r * den - num).natAbs ≤ (value c * den - num).natAbs := by
  rw [Rounds, if_neg (Nat.not_le.mpr hlt)] at h
  exact ⟨h.1, fun c hc => (h.2 c hc).1⟩

/-- The midpoint of a large root and another value is even when it meets the rounded value: two large values are even, and a
small one is no neighbour of the root, since `2^24` stands between them. -/
theorem even_midpoint {z : Nat} {r c : Word} (hz : 2 ^ 75 ≤ z) (hc0 : 0 ≤ value c)
    (hnear : ∀ x, finite x = true → (value r * 2 - z).natAbs ≤ (value x * 2 - z).natAbs)
    (htie : value r + value c = z) : (value r + value c) % 2 = 0 := by
  have h24 : value 0x01000000 = 2 ^ 24 := by decide
  have h25 : value 0x01800000 = 2 ^ 25 := by decide
  have hmid := hnear 0x01000000 (by decide)
  have hbig := hnear 0x01800000 (by decide)
  rw [h24] at hmid
  rw [h25] at hbig
  have hr := even_value (w := r)
  have hc := even_value (w := c)
  omega

/-- The square root is the finite value nearest to half the sticky root. -/
theorem sqrt_nearest {a : Word} (ha : finite a = true) (hpos : 0 < value a) :
    finite (sqrt a) = true ∧ ∀ c, finite c = true →
      (value (sqrt a) * 2 - stickyRoot (units (mag a) * 2 ^ 149)).natAbs ≤
        (value c * 2 - stickyRoot (units (mag a) * 2 ^ 149)).natAbs := by
  have hround := rounds_make (num := stickyRoot (units (mag a) * 2 ^ 149)) (neg := false) two_pos fun _ => by simp
  rw [Int.natAbs_natCast, ← sqrt_of_pos ha hpos] at hround
  have hu : 0 < units (mag a) := units_pos ((value_eq_zero_iff a).not.mp hpos.ne')
  have hlt := (stickyRoot_bounds hu (units_lt ((finite_iff a).mp ha))).2
  generalize stickyRoot (units (mag a) * 2 ^ 149) = z at *
  exact hround.nearest (by rwa [Int.natAbs_natCast])

theorem sqrt_of_value_zero {a : Word} (ha : finite a = true) (h : value a = 0) : sqrt a = a := by
  simp [sqrt, not_nan_of_finite ha, (value_eq_zero_iff a).mp h]

theorem sqrt_rounds {a c : Word} (ha : finite a = true) (hc : finite c = true) (ha0 : 0 ≤ value a) (hc0 : 0 ≤ value c) :
    finite (sqrt a) = true ∧
      (value c < value (sqrt a) → (value (sqrt a) + value c) ^ 2 ≤ 4 * (value a * 2 ^ 149)) ∧
      (value (sqrt a) < value c → 4 * (value a * 2 ^ 149) ≤ (value (sqrt a) + value c) ^ 2) := by
  obtain hzero | hpos := ha0.eq_or_lt
  · rw [sqrt_of_value_zero ha hzero.symm, ← hzero]
    exact ⟨ha, by omega, fun _ => by positivity⟩
  have hva : value a = units (mag a) := by rw [← natAbs_value]; omega
  obtain ⟨hlarge, -⟩ := stickyRoot_bounds (u := units (mag a)) (by omega) (units_lt ((finite_iff a).mp ha))
  obtain ⟨hfin, hnear⟩ := sqrt_nearest ha hpos
  have hnear0 := hnear 0 (by decide)
  have hnearc := hnear c hc
  have hmid := even_midpoint hlarge hc0 hnear
  rw [show value 0 = 0 by decide] at hnear0
  obtain ⟨m, hm⟩ := Int.eq_ofNat_of_zero_le (a := value (sqrt a) + value c) (by omega)
  have hn : 4 * (value a * 2 ^ 149) = (4 * (units (mag a) * 2 ^ 149) : Nat) := by rw [hva]; push_cast; ring
  have hle := sq_le_of_le_stickyRoot (n := units (mag a) * 2 ^ 149) (m := m)
  have hge := le_sq_of_stickyRoot_le (n := units (mag a) * 2 ^ 149) (m := m)
  rw [hm, hn]
  exact ⟨hfin, fun _ => mod_cast hle (by omega) (by omega), fun _ => mod_cast hge (by omega) (by omega)⟩

/-- Settles O17: each operation rounds the exact result once. -/
theorem arithmeticRoundsToNearest : Obligations.ArithmeticRoundsToNearest := fun _ _ _ ha hb hc =>
  ⟨rounds_add ha hb, rounds_sub ha hb, rounds_mul ha hb, rounds_div ha hb, rounds_ofNat,
    fun ha0 hc0 => sqrt_rounds ha hc ha0 hc0⟩

end Sys2Proof.Machine.F32
end

section
/-! PROOFS. How many words each command appends to the event queue, and that an empty queue has room for them. -/

namespace Sys2Proof.Machine

/-! ## How much a meaning appends -/

/-- From `s` to `t` the configuration stays and at most `n` words are appended to the event queue. -/
def OutputWithin (n : Nat) (s t : State) : Prop := t.cfg = s.cfg ∧ t.evq.length ≤ s.evq.length + n

theorem OutputWithin.mono {m n : Nat} {s t : State} (h : OutputWithin m s t) (hmn : m ≤ n) : OutputWithin n s t :=
  ⟨h.1, h.2.trans (Nat.add_le_add_left hmn _)⟩

/-- An ERROR event has three words. -/
theorem takeError_output (s : State) (c : ErrCode) (h : Word) : OutputWithin 3 s (s.takeError c h) := by
  simp [OutputWithin, eventWords_length]

theorem emit_output (s : State) (ty : EventType) (h : Word) (info : BitVec 16) (payload : List Word) :
    OutputWithin (2 + payload.length) s (s.emit ty h info payload) := by
  simp [OutputWithin, eventWords_length]

/-- A meaning appends what its family's rule appends, and three words when check 4 rejects it. -/
theorem runCommand_output {n : Nat} {i : Instr} {s t : State} {body : State → State} (h : runCommand i s body = .next t)
    (hn : 3 ≤ n) (hbody : i.lengthOk s.cfg = true → OutputWithin n s (body s)) : OutputWithin n s t := by
  obtain ⟨hok, rfl⟩ | ⟨-, rfl⟩ := runCommand_cases h
  · exact hbody hok
  · exact (takeError_output s _ _).mono hn

/-! ## Control commands, resets and configuration -/

theorem execNop_output {pay : List Word} {s t : State} (h : execNop pay s = .next t) : OutputWithin 3 s t :=
  runCommand_output h le_rfl fun _ => by simp [OutputWithin]

theorem execMarker_output {tag : BitVec 24} {pay : List Word} {s t : State} (h : execMarker tag pay s = .next t) :
    OutputWithin 3 s t :=
  runCommand_output h le_rfl fun _ => emit_output s _ _ _ _

theorem resetPgOrPoison_output (s : State) : OutputWithin 0 s s.resetPgOrPoison := by
  unfold State.resetPgOrPoison; split <;> simp [OutputWithin, State.resetPg]

theorem resetEgOrPoison_output (s : State) : OutputWithin 0 s s.resetEgOrPoison := by
  unfold State.resetEgOrPoison; split <;> simp [OutputWithin, State.resetEg]

theorem execResetAll_output {pay : List Word} {s t : State} (h : execResetAll pay s = .next t) : OutputWithin 3 s t := by
  refine runCommand_output h le_rfl fun _ => ?_
  obtain ⟨hcfg, hevq⟩ := resetPgOrPoison_output s
  obtain ⟨hcfg', hevq'⟩ := resetEgOrPoison_output s.resetPgOrPoison
  simp only [OutputWithin, resetSequencer_eq, resetCorrelator_eq, resetDelayLine_eq, resetFilters_eq, hcfg', hcfg,
    true_and]
  omega

theorem execPgainReset_output {pay : List Word} {s t : State} (h : execPgainReset pay s = .next t) :
    OutputWithin 3 s t := by
  refine runCommand_output h le_rfl fun _ => ?_
  split
  · simp [OutputWithin, State.resetPg]
  · exact takeError_output s _ _

theorem execEgainReset_output {pay : List Word} {s t : State} (h : execEgainReset pay s = .next t) :
    OutputWithin 3 s t := by
  refine runCommand_output h le_rfl fun _ => ?_
  split
  · simp [OutputWithin, State.resetEg]
  · exact takeError_output s _ _

theorem execFiltLoad_output {b : Bool} {pay : List Word} {s t : State} (h : execFiltLoad b pay s = .next t) :
    OutputWithin 3 s t := by
  refine runCommand_output h le_rfl fun _ => ?_
  split
  · simp [OutputWithin]
  · exact takeError_output s _ _

theorem execFiltReset_output {pay : List Word} {s t : State} (h : execFiltReset pay s = .next t) : OutputWithin 3 s t :=
  runCommand_output h le_rfl fun _ => by simp [OutputWithin, resetFilters_eq]

theorem execFiltSelect_output {fi hi : BitVec 3} {lk : Bool} {pay : List Word} {s t : State}
    (h : execFiltSelect fi hi lk pay s = .next t) : OutputWithin 3 s t := by
  refine runCommand_output h le_rfl fun _ => ?_
  dsimp only
  split
  · exact takeError_output s _ _
  · split <;> simp [OutputWithin, eventWords_length]

theorem execSyncLoad_output {k : BitVec 4} {ndib tol : BitVec 7} {v : Bool} {pay : List Word} {s t : State}
    (h : execSyncLoad k ndib tol v pay s = .next t) : OutputWithin 3 s t := by
  refine runCommand_output h le_rfl fun _ => ?_
  dsimp only
  split
  · exact takeError_output s _ _
  split
  · simp [OutputWithin]
  split
  · exact takeError_output s _ _
  · simp [OutputWithin]

theorem execSyncReset_output {pay : List Word} {s t : State} (h : execSyncReset pay s = .next t) : OutputWithin 3 s t :=
  runCommand_output h le_rfl fun _ => by simp [OutputWithin, resetCorrelator_eq]

/-! ## Sample commands: a report and one event as long as the payload -/

@[simp] theorem gainLoop_length (c : ConfigRegs) (obj g : Word) (ys : List Word) :
    (gainLoop c obj g ys).2.length = ys.length := by
  induction ys generalizing g with
  | nil => rfl
  | cons y ys ih => simp [gainLoop, ih]

@[simp] theorem envelopeLoop_length (c : ConfigRegs) (e : Envelope) (zs : List (Word × Word)) :
    (envelopeLoop c e zs).2.length = zs.length := by
  induction zs generalizing e with
  | nil => rfl
  | cons z zs ih => simp [envelopeLoop, ih]

@[simp] theorem firLoop_length (k : Bank) (xs : List Word) : (firLoop k xs).2.length = xs.length := by
  induction xs generalizing k with
  | nil => rfl
  | cons x xs ih => simp [firLoop, ih]

/-- The half-band loop keeps every second output (R164). -/
@[simp] theorem hbLoop_length (k : Bank) (phase : Bool) (xs : List Word) :
    (hbLoop k phase xs).2.2.length = hbCount phase xs.length := by
  induction xs generalizing k phase with
  | nil => cases phase <;> rfl
  | cons x xs ih => cases phase <;> simp [hbLoop, ih, hbCount]; omega

theorem hbCount_le (phase : Bool) (n : Nat) : hbCount phase n ≤ n := by
  have := phase.toNat_lt
  unfold hbCount; omega

@[simp] theorem implOutputs_length (id : BitVec 3) (d : Nat) (vs : List Word) :
    (implOutputs id d vs).length = vs.length := by simp [implOutputs]

theorem complexSamples_length (ws : List Word) : (complexSamples ws).length = ws.length / 2 := by
  induction ws using complexSamples.induct with
  | case1 i q rest ih => simp [complexSamples, ih]; omega
  | case2 ws h =>
    match ws with
    | [] => rfl
    | [_] => simp [complexSamples]
    | i :: q :: rest => exact absurd rfl (h i q rest)

/-- A state before which at most the report of a cause stands. -/
theorem report_output (s : State) (cause : Bool) (c : ErrCode) (h : Word) :
    OutputWithin 3 s (if cause then s.takeError c h else s) := by
  split
  · exact takeError_output s c h
  · simp [OutputWithin]

theorem poisonPg_output (s : State) (h : Word) (cause : Bool) (n : Nat) : OutputWithin (n + 5) s (s.poisonPg h cause n) := by
  obtain ⟨hcfg, hevq⟩ := report_output s cause .nonfinite h
  simp only [poisonPg_eq, OutputWithin, List.length_append, eventWords_length, drawList_length]
  exact ⟨hcfg, by omega⟩

theorem execPgainProc_output {pay : List Word} {s t : State} (h : execPgainProc pay s = .next t) :
    OutputWithin (pay.length + 5) s t := by
  refine runCommand_output h (by omega) fun _ => ?_
  dsimp only
  split
  · exact (takeError_output s _ _).mono (by omega)
  split
  · exact (emit_output s _ _ _ _).mono (by simp)
  split
  · exact poisonPg_output s _ _ _
  · simp [normalPg_eq, OutputWithin, eventWords_length, removeMean]; omega

theorem poisonEg_output (s : State) (h : Word) (cause : Bool) (n : Nat) :
    OutputWithin (2 * n + 5) s (s.poisonEg h cause n) := by
  obtain ⟨hcfg, hevq⟩ := report_output s cause .nonfinite h
  simp only [poisonEg_eq, OutputWithin, List.length_append, eventWords_length, drawList_length]
  exact ⟨hcfg, by omega⟩

theorem execEgainProc_output {pay : List Word} {s t : State} (h : execEgainProc pay s = .next t) :
    OutputWithin (pay.length + 5) s t := by
  refine runCommand_output h (by omega) fun _ => ?_
  have hlen := complexSamples_length pay
  dsimp only
  split
  · exact (takeError_output s _ _).mono (by omega)
  split
  · exact (poisonEg_output s _ _ _).mono (by omega)
  · simp [normalEg_eq, OutputWithin, eventWords_length]; omega

theorem execFirApply_output {pay : List Word} {s t : State} (h : execFirApply pay s = .next t) :
    OutputWithin (pay.length + 5) s t := by
  refine runCommand_output h (by omega) fun _ => ?_
  dsimp only
  split
  · exact (takeError_output s _ _).mono (by omega)
  split
  · obtain ⟨hcfg, hevq⟩ := report_output s (pay.any (!F32.finite ·)) .nonfinite (Instr.firApply pay).header
    generalize (if pay.any (!F32.finite ·) = true then _ else _ : State) = u at *
    simp [OutputWithin, eventWords_length, hcfg]; omega
  · simp [OutputWithin, eventWords_length]; omega

theorem execHbDecim_output {pay : List Word} {s t : State} (h : execHbDecim pay s = .next t) :
    OutputWithin (pay.length + 5) s t := by
  refine runCommand_output h (by omega) fun _ => ?_
  dsimp only
  split
  · exact (takeError_output s _ _).mono (by omega)
  split
  · obtain ⟨hcfg, hevq⟩ := report_output s (pay.any (!F32.finite ·)) .nonfinite (Instr.hbDecim pay).header
    generalize (if pay.any (!F32.finite ·) = true then _ else _ : State) = u at *
    have hcount := hbCount_le u.filt.phase pay.length
    simp [OutputWithin, eventWords_length, hcfg]; omega
  · have hcount := hbCount_le s.filt.phase pay.length
    simp [OutputWithin, eventWords_length]; omega

/-! ## Delay line and correlator -/

theorem correlate_output (s : State) (h : Word) : OutputWithin 3 s (s.correlate h) := by
  obtain ⟨m, -, heq⟩ | ⟨-, heq⟩ := correlate_cases s h
  · rw [heq, matchStep_eq]; simp [OutputWithin, eventWords_length]
  · by_cases hl : s.reachesLoss
    · rw [heq, missStep_of_lost h hl]; simp [OutputWithin, eventWords_length]
    · rw [heq, missStep_of_not_lost h hl]; simp [OutputWithin]

theorem execDlInsert_output {sym : Dibit} {c e : Bool} {pay : List Word} {s t : State}
    (h : execDlInsert sym c e pay s = .next t) : OutputWithin 5 s t := by
  refine runCommand_output h (by omega) fun _ => ?_
  dsimp only
  generalize hu : (if e = true then _ else _ : State) = u
  have hu : OutputWithin 2 s u := by
    rw [← hu]; split <;> simp [OutputWithin, eventWords_length]
  obtain ⟨hcfg, hevq⟩ := hu
  obtain ⟨hcfg', hevq'⟩ := correlate_output u (Instr.dlInsert sym c e pay).header
  split
  · exact ⟨hcfg'.trans hcfg, by omega⟩
  · exact ⟨hcfg, by omega⟩

theorem execDlUpdate_output {n : BitVec 12} {pay : List Word} {s t : State} (h : execDlUpdate n pay s = .next t) :
    OutputWithin 3 s t := by
  refine runCommand_output h le_rfl fun _ => ?_
  dsimp only
  split
  · exact takeError_output s _ _
  · simp [OutputWithin]

theorem execDlAdjust_output {d : Bool} {pay : List Word} {s t : State} (h : execDlAdjust d pay s = .next t) :
    OutputWithin 3 s t :=
  runCommand_output h le_rfl fun _ => by simp [OutputWithin]

theorem execDlExtract_output {start len : BitVec 12} {pay : List Word} {s t : State}
    (h : execDlExtract start len pay s = .next t) : OutputWithin 258 s t := by
  refine runCommand_output h (by omega) fun _ => ?_
  dsimp only
  split
  · exact (takeError_output s _ _).mono (by omega)
  · have hlen := len.isLt
    refine (emit_output s _ _ _ _).mono ?_
    simp [packDibits, ceilDiv]; omega

theorem execDlReset_output {pay : List Word} {s t : State} (h : execDlReset pay s = .next t) : OutputWithin 3 s t :=
  runCommand_output h le_rfl fun _ => by simp [OutputWithin, resetDelayLine_eq]

/-! ## Trellis decoder and header CRC -/

/-- The decoded bits of a block, `k` for each input kept, fill no more words than there are steps. -/
theorem decodedBits_words (k m : Nat) (us : List Nat) (hk : k ≤ 32) :
    (packBits ((us.take m).flatMap (inputBits k))).length ≤ m := by
  have hbits : ((us.take m).flatMap (inputBits k)).length = (us.take m).length * k := by
    simp [List.length_flatMap, inputBits]
  have hm : (us.take m).length ≤ m := by simp
  have hmul : (us.take m).length * k ≤ m * 32 := Nat.mul_le_mul hm hk
  rw [packBits_length, hbits, ceilDiv]; omega

theorem trellisDecode_output {s : State} {h : Word} {rate : Bool} {k : Nat} {out : List (List (BitVec 4))}
    {prior : BitVec 16} {pay : List Word} (hk : k ≤ 32) :
    OutputWithin (s.cfg.trellisSteps + 4) s (s.trellisDecode h rate k out prior pay) := by
  rw [trellisDecode_eq]
  refine ⟨rfl, ?_⟩
  simp only [List.length_append, eventWords_length, List.length_cons, List.length_nil]
  have hbits := decodedBits_words k (s.cfg.trellisSteps - s.cfg.trellisFlush)
    (traceBest (2 ^ k) out (trellisSteps s.cfg.trellisSteps s.cfg.trellisFlush
      (receivedSymbols s.cfg.trellisSteps pay)) 0 s.draws) hk
  omega

theorem execFecDec12_output {prior : BitVec 16} {pay : List Word} {s t : State}
    (h : execFecDec12 prior pay s = .next t) : OutputWithin (s.cfg.trellisSteps + 4) s t :=
  runCommand_output h (by omega) fun _ => trellisDecode_output (by decide)

theorem execFecDec34_output {prior : BitVec 16} {pay : List Word} {s t : State}
    (h : execFecDec34 prior pay s = .next t) : OutputWithin (s.cfg.trellisSteps + 4) s t :=
  runCommand_output h (by omega) fun _ => trellisDecode_output (by decide)

theorem execCrcHdr_output {pay : List Word} {s t : State} (h : execCrcHdr pay s = .next t) : OutputWithin 5 s t :=
  runCommand_output h (by omega) fun _ => by simp [OutputWithin, eventWords_length]

/-! ## Packet sequencer -/

/-- A PACKET event: two framing words, the header, two counts, and at most 65 words a block. -/
theorem emitPacket_output {s : State} {h : Word} {n : Nat} (hlen : s.ps.blk.length ≤ n)
    (hblk : ∀ b ∈ s.ps.blk, b.data.length = b.oct.toNat) : OutputWithin (7 + n * 65) s (s.emitPacket h) := by
  have hwords : ∀ x ∈ s.ps.blk.map fun b => b.words.length, x ≤ 65 := by
    intro x hx
    obtain ⟨b, hb, rfl⟩ := List.mem_map.mp hx
    have := b.oct.isLt
    simp [Block.words, hblk b hb, ceilDiv]; omega
  have hsum := List.sum_le_card_nsmul _ _ hwords
  have hmul : s.ps.blk.length * 65 ≤ n * 65 := Nat.mul_le_mul_right 65 hlen
  rw [emitPacket_eq]
  simp [OutputWithin, eventWords_length, Sequencer.packetPayload, List.length_flatMap] at hsum ⊢
  omega

theorem execPsStart_output {herr : BitVec 8} {pay : List Word} {s t : State} (h : execPsStart herr pay s = .next t) :
    OutputWithin 10 s t := by
  refine runCommand_output h (by omega) fun _ => ?_
  dsimp only
  obtain ⟨hcfg, hevq⟩ := report_output s s.ps.unfinished .psAbandoned (Instr.psStart herr pay).header
  generalize (if s.ps.unfinished = true then _ else _ : State) = u at *
  obtain ⟨hcfg', hevq'⟩ := emitPacket_output (s := u.setPs (Sequencer.start (headerOfWords pay) herr))
    (h := (Instr.psStart herr pay).header) (n := 0) (by simp [Sequencer.start]) (by simp [Sequencer.start])
  simp only [State.setPs_cfg, State.setPs_evq] at hcfg' hevq'
  split
  · exact ⟨hcfg'.trans hcfg, by omega⟩
  · exact ⟨hcfg, by simp; omega⟩

theorem execPsAdd_output {err oct : BitVec 8} {pay : List Word} {s t : State} (hps : s.ps.Ok)
    (h : execPsAdd err oct pay s = .next t) : OutputWithin 8262 s t := by
  refine runCommand_output h (by omega) fun _ => ?_
  obtain ⟨hrecv, hdecl, hcount, -, hblk⟩ := hps
  dsimp only
  split
  · exact (takeError_output s _ _).mono (by omega)
  split
  · exact (takeError_output s _ _).mono (by omega)
  split
  case isTrue hdone =>
    refine emitPacket_output (n := 127) ?_ ?_
    · simp [Sequencer.add, Config.maxBlocks] at *; omega
    · intro b hb
      simp [Sequencer.add] at hb
      obtain hb | rfl := hb
      · exact hblk b hb
      · simp
  · simp [OutputWithin]

theorem execPsQuery_output {pay : List Word} {s t : State} (h : execPsQuery pay s = .next t) : OutputWithin 4 s t :=
  runCommand_output h (by omega) fun _ => emit_output s _ _ _ _

theorem execPsReset_output {pay : List Word} {s t : State} (h : execPsReset pay s = .next t) : OutputWithin 3 s t :=
  runCommand_output h le_rfl fun _ => by simp [OutputWithin, resetSequencer_eq]

/-! ## Every command -/

/-- The output bound of R7: the longest sample output with its report, or a PACKET of 127 full blocks. -/
def outputBound (c : Config) : Nat := max (c.maxPayloadWords + 5) 8262

theorem le_outputBound {c : Config} {n : Nat} (h : n ≤ c.maxPayloadWords + 5 ∨ n ≤ 8262) : n ≤ outputBound c := by
  unfold outputBound; omega

theorem eventsFit_iff (c : Config) : c.eventsFit = true ↔ outputBound c ≤ c.evqDepth := by
  simp only [Config.eventsFit, decide_eq_true_iff, outputBound]

/-- The output of every command (30_encoding.md R96) is within the bound. -/
theorem exec_output {i : Instr} {s t : State} (hinv : s.Inv) (hpay : i.pay.length ≤ s.cfg.maxPayloadWords)
    (h : exec i s = .next t) : OutputWithin (outputBound s.cfg) s t := by
  obtain ⟨hlegal, -, -, -, -, hps, -⟩ := hinv
  have hsteps : s.cfg.trellisSteps ≤ 255 := by
    simp only [Config.legal, Config.trellisLegal, Bool.and_eq_true, decide_eq_true_iff] at hlegal
    omega
  have small {n : Nat} (hn : n ≤ 8262) : n ≤ outputBound s.cfg := le_outputBound (.inr hn)
  have long {n : Nat} (hn : n ≤ s.cfg.maxPayloadWords) : n + 5 ≤ outputBound s.cfg :=
    le_outputBound (.inl (Nat.add_le_add_right hn 5))
  cases i with
  | nop => exact (execNop_output h).mono (small (by decide))
  | marker => exact (execMarker_output h).mono (small (by decide))
  | resetAll => exact (execResetAll_output h).mono (small (by decide))
  | pgainProc => exact (execPgainProc_output h).mono (long hpay)
  | pgainReset => exact (execPgainReset_output h).mono (small (by decide))
  | egainProc => exact (execEgainProc_output h).mono (long hpay)
  | egainReset => exact (execEgainReset_output h).mono (small (by decide))
  | filtLoad => exact (execFiltLoad_output h).mono (small (by decide))
  | firApply => exact (execFirApply_output h).mono (long hpay)
  | hbDecim => exact (execHbDecim_output h).mono (long hpay)
  | filtReset => exact (execFiltReset_output h).mono (small (by decide))
  | filtSelect => exact (execFiltSelect_output h).mono (small (by decide))
  | dlInsert => exact (execDlInsert_output h).mono (small (by decide))
  | dlUpdate => exact (execDlUpdate_output h).mono (small (by decide))
  | dlAdjust => exact (execDlAdjust_output h).mono (small (by decide))
  | dlExtract => exact (execDlExtract_output h).mono (small (by decide))
  | dlReset => exact (execDlReset_output h).mono (small (by decide))
  | syncLoad => exact (execSyncLoad_output h).mono (small (by decide))
  | syncReset => exact (execSyncReset_output h).mono (small (by decide))
  | fecDec12 => exact (execFecDec12_output h).mono (small (by omega))
  | fecDec34 => exact (execFecDec34_output h).mono (small (by omega))
  | crcHdr => exact (execCrcHdr_output h).mono (small (by decide))
  | psStart => exact (execPsStart_output h).mono (small (by decide))
  | psAdd => exact (execPsAdd_output hps h).mono (small (by decide))
  | psQuery => exact (execPsQuery_output h).mono (small (by decide))
  | psReset => exact (execPsReset_output h).mono (small (by decide))

/-- A decoded command carries the payload words it was decoded from. -/
theorem commandOf_pay {h : Word} {pay : List Word} {reserved : Word} {i : Instr}
    (hc : commandOf h pay = some (reserved, i)) : i.pay = pay := by
  unfold commandOf at hc
  split at hc <;> cases hc <;> rfl

theorem decode_pay {c : Config} {h p : Word} {pay : List Word} {i : Instr} (hd : decode c h p pay = .ok i) :
    i.pay = pay := by
  unfold decode at hd
  split at hd
  · cases hd
  next reserved j hc =>
    split at hd
    · cases hd
    split at hd
    · cases hd
    · cases hd; exact commandOf_pay hc

/-- What the words of a complete command append, performed or rejected. -/
theorem runWords_output {s t : State} {h p : Word} {pay : List Word} (hinv : s.Inv)
    (hpay : pay.length ≤ s.cfg.maxPayloadWords) (hrun : s.runWords h p pay = .next t) :
    OutputWithin (outputBound s.cfg) s t := by
  unfold State.runWords at hrun
  split at hrun
  next i hd => exact exec_output hinv (by rwa [decode_pay hd]) hrun
  next e _ => cases hrun; exact (takeError_output s e h).mono (le_outputBound (.inr (by decide)))

/-- HOLD is a complete command in CA whose events do not fit (R33). -/
theorem hold_eq_true {s : State} (hold : s.hold = true) :
    ∃ h p pay t, s.ca = .body h p pay 0 ∧ s.runWords h p pay = .next t ∧ t.cfg.evqDepth < t.evq.length := by
  unfold State.hold at hold
  split at hold
  next h p pay hca =>
    split at hold
    next t hrun => exact ⟨h, p, pay, t, hca, hrun, of_decide_eq_true hold⟩
    · cases hold
  · cases hold

/-- Settles O10: an empty queue has room for the output bound, which every command keeps. -/
theorem emptyQueueNeverHolds : Obligations.EmptyQueueNeverHolds := by
  intro s hinv hfit hevq
  rw [← Bool.not_eq_true]
  intro hold
  obtain ⟨h, p, pay, t, hca, hrun, hover⟩ := hold_eq_true hold
  have hpay : pay.length ≤ s.cfg.maxPayloadWords := by
    obtain ⟨-, -, -, -, -, -, hok, -⟩ := hinv
    rw [hca] at hok
    exact hok.2.trans_le (Nat.min_le_right _ _)
  obtain ⟨hcfg, hlen⟩ := runWords_output hinv hpay hrun
  rw [eventsFit_iff] at hfit
  rw [hcfg] at hover
  simp only [hevq, List.length_nil] at hlen
  omega

end Sys2Proof.Machine
end

section
/-! PROOFS. What one command can do to each unit and to the rest of the state, said once: a relation for each unit, with the
commands that drive it, and the theorem that every meaning keeps to them (`exec_effect`). The frames, the poison law and the
invariants read them off. -/

namespace Sys2Proof.Machine

/-! ## What every command leaves alone -/

/-- What no command writes stays, and events are only appended (10_state.md R20, 40_control.md R124). -/
structure Outside (s t : State) : Prop where
  cfg : t.cfg = s.cfg
  csr : t.csr = s.csr
  irqEn : t.irqEn = s.irqEn
  cmdq : t.cmdq = s.cmdq
  ca : t.ca = s.ca
  cntCmd : t.cnt.cmd = s.cnt.cmd
  agenda : t.agenda = s.agenda
  hostReads : t.hostReads = s.hostReads
  evq : s.evq <+: t.evq

/-- A command error keeps the error registers sound: its code is one of 1 to 12 (60_exceptions.md R282). -/
theorem ErrorRegs.record_ok {e : ErrorRegs} {c : ErrCode} (h : Word) (hc : c ≠ .csrAccess) (hok : e.Ok) :
    (e.record c h).Ok := by
  have hcode : (1#32 <<< c.num) &&& 0xFFFFC001#32 = 0#32 ∧ (BitVec.ofNat 8 c.num).toNat ≤ 12 := by
    cases c with
    | csrAccess => exact absurd rfl hc
    | _ => decide
  obtain ⟨hsticky, -⟩ := hok
  refine ⟨?_, hcode.2⟩
  rw [ErrorRegs.record, BitVec.and_or_distrib_right, hsticky, hcode.1, BitVec.or_zero]

/-- From `s` to `t` only events, error bookkeeping, counters other than CNT_CMD and draws: no unit changes. -/
structure Report (s t : State) : Prop extends Outside s t where
  pg : t.pg = s.pg
  eg : t.eg = s.eg
  filt : t.filt = s.filt
  dl : t.dl = s.dl
  sync : t.sync = s.sync
  ps : t.ps = s.ps
  errs : s.errs.Ok → t.errs.Ok

namespace Report

variable {s t u : State}

theorem refl (s : State) : Report s s :=
  ⟨⟨rfl, rfl, rfl, rfl, rfl, rfl, rfl, rfl, List.prefix_rfl⟩, rfl, rfl, rfl, rfl, rfl, rfl, id⟩

theorem trans (h : Report s t) (h' : Report t u) : Report s u where
  toOutside := {
    cfg := h'.cfg.trans h.cfg, csr := h'.csr.trans h.csr, irqEn := h'.irqEn.trans h.irqEn
    cmdq := h'.cmdq.trans h.cmdq, ca := h'.ca.trans h.ca, cntCmd := h'.cntCmd.trans h.cntCmd
    agenda := h'.agenda.trans h.agenda, hostReads := h'.hostReads.trans h.hostReads, evq := h.evq.trans h'.evq }
  pg := h'.pg.trans h.pg
  eg := h'.eg.trans h.eg
  filt := h'.filt.trans h.filt
  dl := h'.dl.trans h.dl
  sync := h'.sync.trans h.sync
  ps := h'.ps.trans h.ps
  errs := h'.errs ∘ h.errs

theorem of_update (s : State) (ws : List Word) {e : ErrorRegs} {n : Counters} (d : Nat) (he : s.errs.Ok → e.Ok)
    (hn : n.cmd = s.cnt.cmd) :
    Report s { s with evq := s.evq ++ ws, errs := e, cnt := n, draws := d } :=
  ⟨⟨rfl, rfl, rfl, rfl, rfl, hn, rfl, rfl, List.prefix_append _ _⟩, rfl, rfl, rfl, rfl, rfl, rfl, he⟩

theorem emit (s : State) (ty : EventType) (h : Word) (info : BitVec 16) (payload : List Word) :
    Report s (s.emit ty h info payload) := of_update s _ _ id rfl

theorem drawn (s : State) (n : Nat) : Report s (s.drawn n) := { refl s with }

theorem setCnt (s : State) {n : Counters} (h : n.cmd = s.cnt.cmd) : Report s (s.setCnt n) :=
  { refl s with cntCmd := h }

theorem takeError (s : State) {c : ErrCode} (h : Word) (hc : c ≠ .csrAccess) : Report s (s.takeError c h) :=
  of_update s _ _ (e := s.errs.record c h) (ErrorRegs.record_ok h hc) rfl

/-- A cause is reported before the command runs on; without one nothing happens (60_exceptions.md R281). -/
theorem cause (s : State) (p : Bool) {c : ErrCode} (h : Word) (hc : c ≠ .csrAccess) :
    Report s (if p then s.takeError c h else s) := by
  split
  · exact takeError s h hc
  · exact refl s

/-! A unit is replaced on both sides. -/

theorem setPg (h : Report s t) (v : PeakGain) : Report (s.setPg v) (t.setPg v) := { h with pg := rfl }
theorem setEg (h : Report s t) (v : Envelope) : Report (s.setEg v) (t.setEg v) := { h with eg := rfl }
theorem setFilt (h : Report s t) (v : Filters) : Report (s.setFilt v) (t.setFilt v) := { h with filt := rfl }
theorem setDl (h : Report s t) (v : DelayLine) : Report (s.setDl v) (t.setDl v) := { h with dl := rfl }
theorem setSync (h : Report s t) (v : Correlator) : Report (s.setSync v) (t.setSync v) := { h with sync := rfl }
theorem setPs (h : Report s t) (v : Sequencer) : Report (s.setPs v) (t.setPs v) := { h with ps := rfl }

theorem resetFilters (h : Report s t) : Report s.resetFilters t.resetFilters := by
  simpa only [State.resetFilters, State.setFilt_filt, h.filt, h.cfg] using h.setFilt s.resetFilters.filt

theorem resetDelayLine (h : Report s t) : Report s.resetDelayLine t.resetDelayLine := by
  simpa only [State.resetDelayLine, State.setDl_dl, h.cfg] using h.setDl s.resetDelayLine.dl

theorem resetCorrelator (h : Report s t) : Report s.resetCorrelator t.resetCorrelator := by
  simpa only [State.resetCorrelator, State.setSync_sync, h.sync] using h.setSync s.resetCorrelator.sync

theorem resetSequencer (h : Report s t) : Report s.resetSequencer t.resetSequencer := h.setPs _

end Report

/-! ## What a command can make of each unit -/

/-- What a command can make of the peak-gain unit. -/
inductive PgStep (s : State) : Instr → PeakGain → Prop
  | idle {i : Instr} : PgStep s i s.pg
  | normal {pay : List Word} (legal : s.csr.legalPg = true) (nonempty : pay ≠ []) (clean : s.pg.poison = false)
      (finite : ∀ x ∈ pay, F32.finite x = true) (centred : ∀ y ∈ removeMean pay, F32.finite y = true) :
      PgStep s (.pgainProc pay) (s.normalPg (Instr.pgainProc pay).header (removeMean pay)).pg
  | poisoned {pay : List Word} (cause : Bool) :
      PgStep s (.pgainProc pay) (s.poisonPg (Instr.pgainProc pay).header cause pay.length).pg
  | reset {pay : List Word} (legal : F32.finitePos s.csr.pgInit = true) : PgStep s (.pgainReset pay) s.resetPg.pg
  | resetAll {pay : List Word} : PgStep s (.resetAll pay) s.resetPgOrPoison.pg

/-- What a command can make of the envelope unit. -/
inductive EgStep (s : State) : Instr → Envelope → Prop
  | idle {i : Instr} : EgStep s i s.eg
  | normal {pay : List Word} (legal : s.csr.legalEg = true) (clean : s.eg.poison = false)
      (finite : ∀ x ∈ pay, F32.finite x = true)
      (magnitudes : ∀ z ∈ complexSamples pay, F32.finite (magnitude z) = true) :
      EgStep s (.egainProc pay) (s.normalEg (Instr.egainProc pay).header (complexSamples pay)).eg
  | poisoned {pay : List Word} (cause : Bool) :
      EgStep s (.egainProc pay) (s.poisonEg (Instr.egainProc pay).header cause (complexSamples pay).length).eg
  | reset {pay : List Word} (legal : s.csr.legalEg = true) : EgStep s (.egainReset pay) s.resetEg.eg
  | resetAll {pay : List Word} : EgStep s (.resetAll pay) s.resetPgOrPoison.resetEgOrPoison.eg

/-- What a command can make of the filter unit. -/
inductive FiltStep (s : State) : Instr → Filters → Prop
  | idle {i : Instr} : FiltStep s i s.filt
  | load {b : Bool} {pay : List Word} (legal : loadLegal s.cfg b pay = true) :
      FiltStep s (.filtLoad b pay) (s.filt.setBank b ((s.filt.bank b).load pay))
  | firNormal {pay : List Word} (loaded : s.filt.fir.valid = true) (clean : s.filt.fir.poison = false)
      (finite : ∀ x ∈ pay, F32.finite x = true) :
      FiltStep s (.firApply pay) { s.filt with lk := true, fir := (firLoop s.filt.fir pay).1 }
  | firPoisoned {pay : List Word} (loaded : s.filt.fir.valid = true) (d : Nat) :
      FiltStep s (.firApply pay) { s.filt with lk := true, fir := s.filt.fir.poisoned d }
  | hbNormal {pay : List Word} (loaded : s.filt.hb.valid = true) (clean : s.filt.hb.poison = false)
      (finite : ∀ x ∈ pay, F32.finite x = true) :
      FiltStep s (.hbDecim pay)
        { s.filt with
          lk := true, hb := (hbLoop s.filt.hb s.filt.phase pay).1, phase := (hbLoop s.filt.hb s.filt.phase pay).2.1 }
  | hbPoisoned {pay : List Word} (loaded : s.filt.hb.valid = true) (d : Nat) :
      FiltStep s (.hbDecim pay)
        { s.filt with lk := true, hb := s.filt.hb.poisoned d, phase := s.filt.phase != (pay.length % 2 = 1) }
  | reset {pay : List Word} : FiltStep s (.filtReset pay) s.resetFilters.filt
  | resetAll {pay : List Word} : FiltStep s (.resetAll pay) s.resetFilters.filt
  | select {fi hi : BitVec 3} {lk : Bool} {pay : List Word} (unlocked : s.filt.lk = false) :
      FiltStep s (.filtSelect fi hi lk pay)
        { s.filt with fi := implOrScalar s.cfg fi, hi := implOrScalar s.cfg hi, lk := lk }

/-- What a command can make of the delay line. -/
inductive DlStep (s : State) : Instr → DelayLine → Prop
  | idle {i : Instr} : DlStep s i s.dl
  | insert {sym : Dibit} {c e : Bool} {pay : List Word} : DlStep s (.dlInsert sym c e pay) (s.dl.insert s.cfg sym)
  | update {n : BitVec 12} {pay : List Word} (fits : n.toNat ≤ s.cfg.dlCapacity) :
      DlStep s (.dlUpdate n pay)
        { s.dl with
          buf := overwrite s.cfg.dlCapacity (s.dl.ptr + s.cfg.dlCapacity - n.toNat) s.dl.buf
            (unpackDibits n.toNat pay) }
  | adjust {d : Bool} {pay : List Word} :
      DlStep s (.dlAdjust d pay)
        { s.dl with ptr := (if d then s.dl.ptr + s.cfg.dlCapacity - 1 else s.dl.ptr + 1) % s.cfg.dlCapacity }
  | reset {pay : List Word} : DlStep s (.dlReset pay) s.resetDelayLine.dl
  | resetAll {pay : List Word} : DlStep s (.resetAll pay) s.resetDelayLine.dl

/-- What a command can make of the correlator. -/
inductive SyncStep (s : State) : Instr → Correlator → Prop
  | idle {i : Instr} : SyncStep s i s.sync
  | clear {k : BitVec 4} {ndib tol : BitVec 7} {v : Bool} {pay : List Word} (t : Template) (hv : t.v = false) :
      SyncStep s (.syncLoad k ndib tol v pay) { s.sync with tpl := s.sync.tpl.set k.toNat t }
  | load {k : BitVec 4} {ndib tol : BitVec 7} {v : Bool} {pay : List Word}
      (legal : templateLegal s.cfg ndib.toNat = true) :
      SyncStep s (.syncLoad k ndib tol v pay)
        { s.sync with
          tpl := s.sync.tpl.set k.toNat
            { v := true, ndib := ndib.toNat, tol := tol.toNat, pat := expandDibits (unpackDibits ndib.toNat pay) } }
  | correlated {sym : Dibit} {e : Bool} {pay : List Word} (q : Correlator) (hq : q.tpl = s.sync.tpl) :
      SyncStep s (.dlInsert sym true e pay) q
  | reset {pay : List Word} : SyncStep s (.syncReset pay) s.resetCorrelator.sync
  | resetAll {pay : List Word} : SyncStep s (.resetAll pay) s.resetCorrelator.sync

/-- What a command can make of the packet sequencer. -/
inductive PsStep (s : State) : Instr → Sequencer → Prop
  | idle {i : Instr} : PsStep s i s.ps
  | start {herr : BitVec 8} {pay : List Word} : PsStep s (.psStart herr pay) (Sequencer.start (headerOfWords pay) herr)
  | add {err oct : BitVec 8} {pay : List Word} (hidle : s.ps.state ≠ .idle) (hcomplete : s.ps.state ≠ .complete) :
      PsStep s (.psAdd err oct pay) (s.ps.add { err := err, oct := oct, data := unpackOctets oct.toNat pay })
  | reset {pay : List Word} : PsStep s (.psReset pay) s.resetSequencer.ps
  | resetAll {pay : List Word} : PsStep s (.resetAll pay) s.resetSequencer.ps

/-- What a command can do to each unit, to the error registers and to the rest of the state. -/
structure Effect (i : Instr) (s t : State) : Prop extends Outside s t where
  pg : PgStep s i t.pg
  eg : EgStep s i t.eg
  filt : FiltStep s i t.filt
  dl : DlStep s i t.dl
  sync : SyncStep s i t.sync
  ps : PsStep s i t.ps
  errs : s.errs.Ok → t.errs.Ok

/-- A command that replaces units, each by a step of its own, and reports. -/
theorem Effect.of_units {i : Instr} {s t : State} {pg : PeakGain} {eg : Envelope} {filt : Filters} {dl : DelayLine}
    {sync : Correlator} {ps : Sequencer} (hpg : PgStep s i pg) (heg : EgStep s i eg) (hfilt : FiltStep s i filt)
    (hdl : DlStep s i dl) (hsync : SyncStep s i sync) (hps : PsStep s i ps)
    (h : Report { s with pg := pg, eg := eg, filt := filt, dl := dl, sync := sync, ps := ps } t) : Effect i s t where
  toOutside := { h.toOutside with }
  pg := h.pg ▸ hpg
  eg := h.eg ▸ heg
  filt := h.filt ▸ hfilt
  dl := h.dl ▸ hdl
  sync := h.sync ▸ hsync
  ps := h.ps ▸ hps
  errs := h.errs

/-- A command that only reports. -/
theorem Effect.of_report {i : Instr} {s t : State} (h : Report s t) : Effect i s t :=
  .of_units .idle .idle .idle .idle .idle .idle h

/-- A meaning does what its family's rule does, or rejects the length (30_encoding.md R92, check 4). -/
theorem runCommand_effect {i : Instr} {s t : State} {body : State → State} (h : runCommand i s body = .next t)
    (hbody : Effect i s (body s)) : Effect i s t := by
  obtain ⟨-, rfl⟩ | ⟨-, rfl⟩ := runCommand_cases h
  · exact hbody
  · exact .of_report (.takeError s _ (by decide))

section
variable {s t : State} {pay : List Word}

/-! ### Control -/

theorem execNop_effect (h : execNop pay s = .next t) : Effect (.nop pay) s t :=
  runCommand_effect h (.of_report (.refl s))

theorem execMarker_effect {tag : BitVec 24} (h : execMarker tag pay s = .next t) : Effect (.marker tag pay) s t :=
  runCommand_effect h (.of_report (.emit s _ _ _ _))

theorem resetPgOrPoison_report (s : State) : Report (s.setPg s.resetPgOrPoison.pg) s.resetPgOrPoison := by
  unfold State.resetPgOrPoison
  split
  · exact .refl _
  · exact .drawn _ _

theorem resetEgOrPoison_report (s : State) : Report (s.setEg s.resetEgOrPoison.eg) s.resetEgOrPoison := by
  unfold State.resetEgOrPoison
  split
  · exact .refl _
  · exact .drawn _ _

/-- The rolling-state reset of the two gain modes changes these two units and draws at most. -/
theorem resetGains_report (s : State) :
    Report { s with pg := s.resetPgOrPoison.pg, eg := s.resetPgOrPoison.resetEgOrPoison.eg }
      s.resetPgOrPoison.resetEgOrPoison :=
  ((resetPgOrPoison_report s).setEg _).trans (resetEgOrPoison_report _)

theorem execResetAll_effect (h : execResetAll pay s = .next t) : Effect (.resetAll pay) s t :=
  runCommand_effect h (.of_units .resetAll .resetAll .resetAll .resetAll .resetAll .resetAll
    (resetGains_report s).resetFilters.resetDelayLine.resetCorrelator.resetSequencer)

/-! ### Gain normalizer -/

theorem poisonPg_report (s : State) (h : Word) (cause : Bool) (n : Nat) :
    Report (s.setPg (s.poisonPg h cause n).pg) (s.poisonPg h cause n) := by
  have hcause := Report.cause s cause h (c := .nonfinite) (by decide)
  exact ((hcause.trans (.emit _ _ _ _ _)).setPg _).trans (.drawn _ _)

theorem execPgainProc_effect (h : execPgainProc pay s = .next t) : Effect (.pgainProc pay) s t := by
  refine runCommand_effect h ?_
  dsimp only
  split
  · exact .of_report (.takeError s _ (by decide))
  split
  · exact .of_report (.emit s _ _ _ _)
  split
  case isTrue => exact .of_units (.poisoned _) .idle .idle .idle .idle .idle (poisonPg_report s _ _ _)
  case isFalse hlegal hpay hclean =>
    simp at hlegal hpay hclean
    obtain ⟨hclean, hfinite, hcentred⟩ := hclean
    exact .of_units (.normal hlegal hpay hclean hfinite hcentred) .idle .idle .idle .idle .idle (.emit _ _ _ _ _)

theorem execPgainReset_effect (h : execPgainReset pay s = .next t) : Effect (.pgainReset pay) s t := by
  refine runCommand_effect h ?_
  split
  case isTrue hlegal => exact .of_units (.reset hlegal) .idle .idle .idle .idle .idle (.refl _)
  case isFalse => exact .of_report (.takeError s _ (by decide))

theorem poisonEg_report (s : State) (h : Word) (cause : Bool) (n : Nat) :
    Report (s.setEg (s.poisonEg h cause n).eg) (s.poisonEg h cause n) := by
  have hcause := Report.cause s cause h (c := .nonfinite) (by decide)
  exact ((hcause.trans (.emit _ _ _ _ _)).setEg _).trans (.drawn _ _)

theorem execEgainProc_effect (h : execEgainProc pay s = .next t) : Effect (.egainProc pay) s t := by
  refine runCommand_effect h ?_
  dsimp only
  split
  · exact .of_report (.takeError s _ (by decide))
  split
  case isTrue => exact .of_units .idle (.poisoned _) .idle .idle .idle .idle (poisonEg_report s _ _ _)
  case isFalse hlegal hclean =>
    simp at hlegal hclean
    obtain ⟨hclean, hfinite, hmags⟩ := hclean
    exact .of_units .idle (.normal hlegal hclean hfinite fun z hz => hmags _ _ hz) .idle .idle .idle .idle
      ((Report.emit _ _ _ _ _).trans (.drawn _ _))

theorem execEgainReset_effect (h : execEgainReset pay s = .next t) : Effect (.egainReset pay) s t := by
  refine runCommand_effect h ?_
  split
  case isTrue hlegal => exact .of_units .idle (.reset hlegal) .idle .idle .idle .idle (.refl _)
  case isFalse => exact .of_report (.takeError s _ (by decide))

/-! ### Filters -/

theorem execFiltLoad_effect {b : Bool} (h : execFiltLoad b pay s = .next t) : Effect (.filtLoad b pay) s t := by
  refine runCommand_effect h ?_
  split
  case isTrue hlegal => exact .of_units .idle .idle (.load hlegal) .idle .idle .idle (.refl _)
  case isFalse => exact .of_report (.takeError s _ (by decide))

theorem execFirApply_effect (h : execFirApply pay s = .next t) : Effect (.firApply pay) s t := by
  refine runCommand_effect h ?_
  dsimp only
  split
  · exact .of_report (.takeError s _ (by decide))
  case isFalse hloaded =>
  simp at hloaded
  split
  case isTrue =>
    have hcause := Report.cause s (pay.any (!F32.finite ·)) (Instr.firApply pay).header (c := .nonfinite) (by decide)
    generalize (if pay.any (!F32.finite ·) = true then _ else _ : State) = u at *
    rw [hcause.filt]
    exact .of_units .idle .idle (.firPoisoned hloaded _) .idle .idle .idle
      (((hcause.trans (.emit _ _ _ _ _)).setFilt _).trans (.drawn _ _))
  case isFalse hclean =>
    simp at hclean
    exact .of_units .idle .idle (.firNormal hloaded hclean.1 hclean.2) .idle .idle .idle
      ((Report.emit _ _ _ _ _).trans (.drawn _ _))

theorem execHbDecim_effect (h : execHbDecim pay s = .next t) : Effect (.hbDecim pay) s t := by
  refine runCommand_effect h ?_
  dsimp only
  split
  · exact .of_report (.takeError s _ (by decide))
  case isFalse hloaded =>
  simp at hloaded
  split
  case isTrue =>
    have hcause := Report.cause s (pay.any (!F32.finite ·)) (Instr.hbDecim pay).header (c := .nonfinite) (by decide)
    generalize (if pay.any (!F32.finite ·) = true then _ else _ : State) = u at *
    rw [hcause.filt]
    exact .of_units .idle .idle (.hbPoisoned hloaded _) .idle .idle .idle
      (((hcause.trans (.emit _ _ _ _ _)).setFilt _).trans (.drawn _ _))
  case isFalse hclean =>
    simp at hclean
    exact .of_units .idle .idle (.hbNormal hloaded hclean.1 hclean.2) .idle .idle .idle
      ((Report.emit _ _ _ _ _).trans (.drawn _ _))

theorem execFiltReset_effect (h : execFiltReset pay s = .next t) : Effect (.filtReset pay) s t :=
  runCommand_effect h (.of_units .idle .idle .reset .idle .idle .idle (.refl _))

theorem execFiltSelect_effect {fi hi : BitVec 3} {lk : Bool} (h : execFiltSelect fi hi lk pay s = .next t) :
    Effect (.filtSelect fi hi lk pay) s t := by
  refine runCommand_effect h ?_
  dsimp only
  split
  · exact .of_report (.takeError s _ (by decide))
  case isFalse hunlocked =>
  generalize (decide (s.cfg.numFilterImpls ≤ fi.toNat) || decide (s.cfg.numFilterImpls ≤ hi.toNat)) = missing
  have hcause := Report.cause s missing (Instr.filtSelect fi hi lk pay).header (c := .implFallback) (by decide)
  generalize (if missing = true then _ else _ : State) = u at *
  rw [hcause.filt, hcause.cfg]
  exact .of_units .idle .idle (.select (by simpa using hunlocked)) .idle .idle .idle (hcause.setFilt _)

/-! ### Delay line and correlator -/

/-- A correlation changes the correlator, its templates aside, and reports. -/
theorem correlate_report (s : State) (h : Word) :
    (s.correlate h).sync.tpl = s.sync.tpl ∧ Report (s.setSync (s.correlate h).sync) (s.correlate h) := by
  obtain ⟨m, -, heq⟩ | ⟨-, heq⟩ := correlate_cases s h <;> rw [heq]
  · exact ⟨rfl, .of_update (s.setSync _) _ _ id rfl⟩
  · by_cases hl : s.reachesLoss
    · rw [missStep_of_lost h hl]
      exact ⟨rfl, .of_update (s.setSync _) _ _ id rfl⟩
    · rw [missStep_of_not_lost h hl]
      exact ⟨rfl, .refl (s.setSync _)⟩

theorem execDlInsert_effect {sym : Dibit} {c e : Bool} (h : execDlInsert sym c e pay s = .next t) :
    Effect (.dlInsert sym c e pay) s t := by
  refine runCommand_effect h ?_
  dsimp only
  generalize hu : (if e = true then _ else _ : State) = u
  have hrep : Report (s.setDl (s.dl.insert s.cfg sym)) u := by
    rw [← hu]; split
    · exact .emit _ _ _ _ _
    · exact .refl _
  split
  case isFalse => exact .of_units .idle .idle .idle .insert .idle .idle hrep
  case isTrue hc =>
    obtain ⟨htpl, hcorr⟩ := correlate_report u (Instr.dlInsert sym c e pay).header
    rw [hrep.sync] at htpl
    subst hc
    exact .of_units .idle .idle .idle .insert (.correlated _ htpl) .idle ((hrep.setSync _).trans hcorr)

theorem execDlUpdate_effect {n : BitVec 12} (h : execDlUpdate n pay s = .next t) : Effect (.dlUpdate n pay) s t := by
  refine runCommand_effect h ?_
  dsimp only
  split
  · exact .of_report (.takeError s _ (by decide))
  case isFalse hfits => exact .of_units .idle .idle .idle (.update (Nat.le_of_not_lt hfits)) .idle .idle (.refl _)

theorem execDlAdjust_effect {d : Bool} (h : execDlAdjust d pay s = .next t) : Effect (.dlAdjust d pay) s t := by
  refine runCommand_effect h ?_
  cases d <;> exact .of_units .idle .idle .idle .adjust .idle .idle (.refl _)

theorem execDlExtract_effect {start len : BitVec 12} (h : execDlExtract start len pay s = .next t) :
    Effect (.dlExtract start len pay) s t := by
  refine runCommand_effect h ?_
  dsimp only
  split
  · exact .of_report (.takeError s _ (by decide))
  · exact .of_report (.emit s _ _ _ _)

theorem execDlReset_effect (h : execDlReset pay s = .next t) : Effect (.dlReset pay) s t :=
  runCommand_effect h (.of_units .idle .idle .idle .reset .idle .idle (.refl _))

theorem execSyncLoad_effect {k : BitVec 4} {ndib tol : BitVec 7} {v : Bool}
    (h : execSyncLoad k ndib tol v pay s = .next t) : Effect (.syncLoad k ndib tol v pay) s t := by
  refine runCommand_effect h ?_
  dsimp only
  split
  · exact .of_report (.takeError s _ (by decide))
  split
  · exact .of_units .idle .idle .idle .idle (.clear _ rfl) .idle (.refl _)
  split
  · exact .of_report (.takeError s _ (by decide))
  case isFalse hlegal => exact .of_units .idle .idle .idle .idle (.load (by simpa using hlegal)) .idle (.refl _)

theorem execSyncReset_effect (h : execSyncReset pay s = .next t) : Effect (.syncReset pay) s t :=
  runCommand_effect h (.of_units .idle .idle .idle .idle .reset .idle (.refl _))

/-! ### Trellis decoder and header CRC -/

theorem trellisDecode_report (s : State) (h : Word) (rate : Bool) (k : Nat) (out : List (List (BitVec 4)))
    (prior : BitVec 16) (pay : List Word) : Report s (s.trellisDecode h rate k out prior pay) :=
  .of_update s _ _ id rfl

theorem execFecDec12_effect {prior : BitVec 16} (h : execFecDec12 prior pay s = .next t) :
    Effect (.fecDec12 prior pay) s t :=
  runCommand_effect h (.of_report (trellisDecode_report s _ _ _ _ _ _))

theorem execFecDec34_effect {prior : BitVec 16} (h : execFecDec34 prior pay s = .next t) :
    Effect (.fecDec34 prior pay) s t :=
  runCommand_effect h (.of_report (trellisDecode_report s _ _ _ _ _ _))

theorem execCrcHdr_effect (h : execCrcHdr pay s = .next t) : Effect (.crcHdr pay) s t :=
  runCommand_effect h (.of_report ((Report.emit s _ _ _ _).trans (.setCnt _ rfl)))

/-! ### Packet sequencer -/

/-- A PACKET is emitted and counted where a sequence is complete. -/
theorem emitPacket_report (s : State) (h : Word) (p : Prop) [Decidable p] :
    Report s (if p then s.emitPacket h else s) := by
  split
  · exact .of_update s _ _ id rfl
  · exact .refl s

theorem execPsStart_effect {herr : BitVec 8} (h : execPsStart herr pay s = .next t) :
    Effect (.psStart herr pay) s t := by
  refine runCommand_effect h ?_
  have hcause := Report.cause s s.ps.unfinished (Instr.psStart herr pay).header (c := .psAbandoned) (by decide)
  exact .of_units .idle .idle .idle .idle .idle .start ((hcause.setPs _).trans (emitPacket_report _ _ _))

theorem execPsAdd_effect {err oct : BitVec 8} (h : execPsAdd err oct pay s = .next t) :
    Effect (.psAdd err oct pay) s t := by
  refine runCommand_effect h ?_
  dsimp only
  split
  · exact .of_report (.takeError s _ (by decide))
  split
  · exact .of_report (.takeError s _ (by decide))
  case isFalse hidle hcomplete =>
    exact .of_units .idle .idle .idle .idle .idle (.add hidle hcomplete) (emitPacket_report _ _ _)

theorem execPsQuery_effect (h : execPsQuery pay s = .next t) : Effect (.psQuery pay) s t :=
  runCommand_effect h (.of_report (.emit s _ _ _ _))

theorem execPsReset_effect (h : execPsReset pay s = .next t) : Effect (.psReset pay) s t :=
  runCommand_effect h (.of_units .idle .idle .idle .idle .idle .reset (.refl _))

end

/-- Every command keeps to its steps. -/
theorem exec_effect {i : Instr} {s t : State} (h : exec i s = .next t) : Effect i s t := by
  cases i with
  | nop => exact execNop_effect h
  | marker => exact execMarker_effect h
  | resetAll => exact execResetAll_effect h
  | pgainProc => exact execPgainProc_effect h
  | pgainReset => exact execPgainReset_effect h
  | egainProc => exact execEgainProc_effect h
  | egainReset => exact execEgainReset_effect h
  | filtLoad => exact execFiltLoad_effect h
  | firApply => exact execFirApply_effect h
  | hbDecim => exact execHbDecim_effect h
  | filtReset => exact execFiltReset_effect h
  | filtSelect => exact execFiltSelect_effect h
  | dlInsert => exact execDlInsert_effect h
  | dlUpdate => exact execDlUpdate_effect h
  | dlAdjust => exact execDlAdjust_effect h
  | dlExtract => exact execDlExtract_effect h
  | dlReset => exact execDlReset_effect h
  | syncLoad => exact execSyncLoad_effect h
  | syncReset => exact execSyncReset_effect h
  | fecDec12 => exact execFecDec12_effect h
  | fecDec34 => exact execFecDec34_effect h
  | crcHdr => exact execCrcHdr_effect h
  | psStart => exact execPsStart_effect h
  | psAdd => exact execPsAdd_effect h
  | psQuery => exact execPsQuery_effect h
  | psReset => exact execPsReset_effect h

/-- Settles O11: the part of a command's effect that is common to all. -/
theorem commandFrame : Obligations.CommandFrame := by
  intro i s t h
  obtain ⟨hcfg, hcsr, hirq, hcmdq, hca, hcnt, hagenda, hreads, hevq⟩ := (exec_effect h).toOutside
  exact ⟨hcfg, hcsr, hirq, hcmdq, hca, hcnt, hagenda, hreads, hevq⟩

end Sys2Proof.Machine
end

section
/-! PROOFS. What the steps of each unit keep: a unit that a command does not drive, the coefficients, the templates and the
implementation ids, and the poison flags. -/

namespace Sys2Proof.Machine

/-! ## A unit that the command does not drive -/

section
variable {s : State} {i : Instr}

theorem PgStep.eq_of_not_drives {v : PeakGain} (h : PgStep s i v) (hi : drivesPg i = false) : v = s.pg := by
  cases h with
  | idle => rfl
  | _ => cases hi

theorem EgStep.eq_of_not_drives {v : Envelope} (h : EgStep s i v) (hi : drivesEg i = false) : v = s.eg := by
  cases h with
  | idle => rfl
  | _ => cases hi

theorem FiltStep.eq_of_not_drives {v : Filters} (h : FiltStep s i v) (hi : drivesFilt i = false) : v = s.filt := by
  cases h with
  | idle => rfl
  | _ => cases hi

theorem DlStep.eq_of_not_drives {v : DelayLine} (h : DlStep s i v) (hi : drivesDl i = false) : v = s.dl := by
  cases h with
  | idle => rfl
  | _ => cases hi

theorem SyncStep.eq_of_not_drives {v : Correlator} (h : SyncStep s i v) (hi : drivesSync i = false) : v = s.sync := by
  cases h with
  | idle => rfl
  | _ => cases hi

theorem PsStep.eq_of_not_drives {v : Sequencer} (h : PsStep s i v) (hi : drivesPs i = false) : v = s.ps := by
  cases h with
  | idle => rfl
  | _ => cases hi

/-! ## Coefficients, implementation ids and templates -/

/-- The FIR loop changes nothing of the bank but its history (42_filter.md R163). -/
theorem firLoop_bank (k : Bank) (xs : List Word) : (firLoop k xs).1 = { k with hist := (firLoop k xs).1.hist } := by
  induction xs generalizing k with
  | nil => rfl
  | cons x xs ih => exact ih (k.shift x)

/-- The half-band loop runs its bank as the FIR loop does (42_filter.md R164). -/
theorem hbLoop_bank (k : Bank) (phase : Bool) (xs : List Word) : (hbLoop k phase xs).1 = (firLoop k xs).1 := by
  induction xs generalizing k phase with
  | nil => rfl
  | cons x xs ih => exact ih (k.shift x) (!phase)

/-- Two banks hold the same loaded filter. -/
structure SameLoad (k l : Bank) : Prop where
  coef : l.coef = k.coef
  taps : l.taps = k.taps
  valid : l.valid = k.valid

theorem SameLoad.refl (k : Bank) : SameLoad k k := ⟨rfl, rfl, rfl⟩

theorem SameLoad.firLoop (k : Bank) (xs : List Word) : SameLoad k (firLoop k xs).1 := by
  rw [firLoop_bank]; exact ⟨rfl, rfl, rfl⟩

/-- Only FILT.LOAD changes what a bank has loaded. -/
theorem FiltStep.sameLoad {v : Filters} (h : FiltStep s i v) (hi : ∀ b pay, i ≠ .filtLoad b pay) :
    SameLoad s.filt.fir v.fir ∧ SameLoad s.filt.hb v.hb := by
  cases h with
  | load => exact absurd rfl (hi _ _)
  | firNormal => exact ⟨.firLoop _ _, .refl _⟩
  | hbNormal => exact ⟨.refl _, hbLoop_bank _ _ _ ▸ .firLoop _ _⟩
  | firPoisoned | hbPoisoned | reset | resetAll | select | idle => exact ⟨⟨rfl, rfl, rfl⟩, ⟨rfl, rfl, rfl⟩⟩

/-- Only FILT.SELECT changes the implementation ids. -/
theorem FiltStep.ids {v : Filters} (h : FiltStep s i v) (hi : ∀ fi hi lk pay, i ≠ .filtSelect fi hi lk pay) :
    v.fi = s.filt.fi ∧ v.hi = s.filt.hi := by
  cases h with
  | select => exact absurd rfl (hi _ _ _ _)
  | @load b => cases b <;> exact ⟨rfl, rfl⟩
  | _ => exact ⟨rfl, rfl⟩

/-- Only SYNC.LOAD changes the templates. -/
theorem SyncStep.tpl {v : Correlator} (h : SyncStep s i v) (hi : ∀ k n tol v pay, i ≠ .syncLoad k n tol v pay) :
    v.tpl = s.sync.tpl := by
  cases h with
  | clear | load => exact absurd rfl (hi _ _ _ _ _)
  | correlated _ htpl => exact htpl
  | idle | reset | resetAll => rfl

/-! ## Poison flags -/

theorem PgStep.poison {v : PeakGain} (h : PgStep s i v) (hp : s.pg.poison = true) (hall : ∀ pay, i ≠ .resetAll pay)
    (hi : ∀ pay, i ≠ .pgainReset pay) : v.poison = true := by
  cases h with
  | idle => exact hp
  | normal => exact hp
  | poisoned => rfl
  | reset => exact absurd rfl (hi _)
  | resetAll => exact absurd rfl (hall _)

theorem EgStep.poison {v : Envelope} (h : EgStep s i v) (hp : s.eg.poison = true) (hall : ∀ pay, i ≠ .resetAll pay)
    (hi : ∀ pay, i ≠ .egainReset pay) : v.poison = true := by
  cases h with
  | idle => exact hp
  | normal _ hclean => rw [hclean] at hp; cases hp
  | poisoned => rfl
  | reset => exact absurd rfl (hi _)
  | resetAll => exact absurd rfl (hall _)

/-- A bank's flag stays set, when it is, through every step but a filter reset; a load keeps it too (42_filter.md R165). -/
theorem FiltStep.poison {v : Filters} (h : FiltStep s i v) (hall : ∀ pay, i ≠ .resetAll pay)
    (hi : ∀ pay, i ≠ .filtReset pay) :
    (s.filt.fir.poison = true → v.fir.poison = true) ∧ (s.filt.hb.poison = true → v.hb.poison = true) := by
  cases h with
  | idle | select => exact ⟨id, id⟩
  | @load b => cases b <;> exact ⟨id, id⟩
  | firNormal _ clean => exact ⟨fun hp => absurd (clean.symm.trans hp) (by decide), id⟩
  | firPoisoned => exact ⟨fun _ => rfl, id⟩
  | hbNormal _ clean => exact ⟨id, fun hp => absurd (clean.symm.trans hp) (by decide)⟩
  | hbPoisoned => exact ⟨id, fun _ => rfl⟩
  | reset => exact absurd rfl (hi _)
  | resetAll => exact absurd rfl (hall _)

end

/-- Settles O12, unit by unit. -/
theorem unitFrames : Obligations.UnitFrames := by
  intro i s t h
  have heff := exec_effect h
  refine ⟨heff.pg.eq_of_not_drives, heff.eg.eq_of_not_drives, heff.filt.eq_of_not_drives, heff.dl.eq_of_not_drives,
    heff.sync.eq_of_not_drives, heff.ps.eq_of_not_drives, fun hi => ?_, heff.sync.tpl, heff.filt.ids⟩
  obtain ⟨hfir, hhb⟩ := heff.filt.sameLoad hi
  exact ⟨hfir.coef, hfir.taps, hfir.valid, hhb.coef, hhb.taps, hhb.valid⟩

/-- Settles O15, flag by flag. -/
theorem poisonClearedOnlyByReset : Obligations.PoisonClearedOnlyByReset := by
  intro i s t h hall
  have heff := exec_effect h
  exact ⟨fun hp => heff.pg.poison hp hall, fun hp => heff.eg.poison hp hall,
    fun hp hi => (heff.filt.poison hall hi).1 hp, fun hp hi => (heff.filt.poison hall hi).2 hp⟩

end Sys2Proof.Machine
end

section
/-! PROOFS. What one step can do (`step_cases`): the engine receives, holds or performs, the host moves, or power-on; and
what one host access can do. -/

namespace Sys2Proof.Machine

/-! ## One step -/

/-- A state after `s` and some turns later. -/
abbrev State.after (s : State) (rest : List Turn) : State := { s with agenda := rest }

/-- All that one step can do; `rest` is what is left of the agenda. -/
inductive StepTo (s : State) : State → Prop
  | receive (rest : List Turn) (incomplete : s.ca.isComplete = false) : StepTo s (s.after rest).receive
  | hold (rest : List Turn) : StepTo s (s.after rest)
  | perform (rest : List Turn) {h p : Word} {pay : List Word} {u : State} (complete : s.ca = .body h p pay 0)
      (run : (s.after rest).runWords h p pay = .next u) (room : u.evq.length ≤ u.cfg.evqDepth) : StepTo s u.finish
  | host (rest : List Turn) (a : HostAccess) (free : s.held a = false) : StepTo s ((s.after rest).hostStep a)
  | powerOn (rest : List Turn) : StepTo s (s.after rest).powerOn

/-- The perform step is HOLD where the events do not fit, and otherwise the command's effects, counted (10_state.md R20). -/
theorem performWords_of_run {s u : State} {h p : Word} {pay : List Word} (hrun : s.runWords h p pay = .next u) :
    s.performWords h p pay = .next (if u.cfg.evqDepth < u.evq.length then s else u.finish) := by
  simp [State.performWords, hrun, State.overflows]

theorem performWords_cases {s t : State} {h p : Word} {pay : List Word} (hstep : s.performWords h p pay = .next t) :
    ∃ u, s.runWords h p pay = .next u ∧ (t = s ∨ u.evq.length ≤ u.cfg.evqDepth ∧ t = u.finish) := by
  cases hrun : s.runWords h p pay with
  | next u =>
    rw [performWords_of_run hrun] at hstep
    cases hstep
    refine ⟨u, rfl, ?_⟩
    split
    · exact .inl rfl
    case isFalse hroom => exact .inr ⟨Nat.le_of_not_lt hroom, rfl⟩
  | fault r => simp [State.performWords, hrun] at hstep
  | refused r => simp [State.performWords, hrun] at hstep

theorem Assembly.isComplete_iff (a : Assembly) : a.isComplete = true ↔ ∃ h p pay, a = .body h p pay 0 := by
  cases a <;> simp [Assembly.isComplete]

theorem engineStep_cases {s t : State} {rest : List Turn} (hstep : (s.after rest).engineStep = .next t) : StepTo s t := by
  cases hc : s.ca.isComplete with
  | true =>
    obtain ⟨h, p, pay, hca⟩ := (Assembly.isComplete_iff _).mp hc
    rw [engineStep_complete (s := s.after rest) hca] at hstep
    obtain ⟨u, hrun, rfl | ⟨hroom, rfl⟩⟩ := performWords_cases hstep
    · exact .hold rest
    · exact .perform rest hca hrun hroom
  | false =>
    rw [engineStep_incomplete (s := s.after rest) hc] at hstep
    cases hstep
    exact .receive rest hc

theorem step_cases {s t : State} (hstep : step s = .next t) : StepTo s t := by
  unfold step State.takeTurn at hstep
  split at hstep
  · exact engineStep_cases (rest := s.agenda) hstep
  next rest _ => exact engineStep_cases hstep
  next rest _ => cases hstep; exact .powerOn rest
  next a rest _ =>
    split at hstep
    · exact engineStep_cases (rest := s.agenda) hstep
    case isFalse hfree => cases hstep; exact .host rest a (by simpa using hfree)

/-! ## One host access -/

/-- No host access changes a unit, the configuration or CA. -/
structure HostFrame (s t : State) : Prop where
  cfg : t.cfg = s.cfg
  pg : t.pg = s.pg
  eg : t.eg = s.eg
  filt : t.filt = s.filt
  dl : t.dl = s.dl
  sync : t.sync = s.sync
  ps : t.ps = s.ps
  ca : t.ca = s.ca

/-- A write changes configuration registers, IRQ_EN, ERR_STICKY and CMDQ, and no more. -/
theorem csrStore_eq (s : State) (r : Csr) (v : Word) :
    s.csrStore r v = { s with
      csr := (s.csrStore r v).csr, irqEn := (s.csrStore r v).irqEn
      errs := { s.errs with sticky := (s.csrStore r v).errs.sticky }, cmdq := (s.csrStore r v).cmdq } := by
  cases r <;> rfl

/-- Only a write to EG_WINDOW changes it (10_state.md R42). -/
theorem csrStore_egWindow (s : State) (r : Csr) (v : Word) :
    (s.csrStore r v).csr.egWindow = s.csr.egWindow ∨
      (s.csrStore r v).csr.egWindow = windowAfterWrite s.cfg s.csr.egWindow v := by
  cases r with
  | egWindow => exact .inr rfl
  | _ => exact .inl rfl

/-- Only a write to ERR_STICKY changes it, and it only clears bits (10_state.md R35). -/
theorem csrStore_sticky (s : State) (r : Csr) (v : Word) :
    (s.csrStore r v).errs.sticky = s.errs.sticky ∨ (s.csrStore r v).errs.sticky = s.errs.sticky &&& ~~~v := by
  cases r with
  | errSticky => exact .inr rfl
  | _ => exact .inl rfl

/-- Only a push appends to CMDQ (10_state.md R38). -/
theorem csrStore_cmdq (s : State) (r : Csr) (v : Word) :
    (s.csrStore r v).cmdq = s.cmdq ∨ r = .cmdqPush ∧ (s.csrStore r v).cmdq = s.cmdq ++ [v] := by
  cases r with
  | cmdqPush => exact .inr ⟨rfl, rfl⟩
  | _ => exact .inl rfl

/-- A read records a word, and beside that may take the oldest event word or report an access error. -/
theorem hostRead_cases (s : State) (bytes : Nat) (off : BitVec 12) :
    ∃ w, s.hostRead bytes off = s.returnWord w ∨ s.hostRead bytes off = s.takeAccessError.returnWord w ∨
      s.hostRead bytes off = { s with evq := s.evq.tail }.returnWord w := by
  unfold State.hostRead
  split
  · exact ⟨0, .inr (.inl rfl)⟩
  next r _ =>
    split
    · split
      · exact ⟨0, .inr (.inl rfl)⟩
      · exact ⟨s.csrWord r, .inr (.inr rfl)⟩
    · exact ⟨s.csrWord r, .inl rfl⟩

/-- A write stores, or reports an access error. -/
theorem hostWrite_cases (s : State) (bytes : Nat) (off : BitVec 12) (v : Word) :
    s.hostWrite bytes off v = s.takeAccessError ∨
      ∃ r, accessed bytes off = some r ∧ s.hostWrite bytes off v = s.csrStore r v := by
  unfold State.hostWrite
  split
  · exact .inl rfl
  next r hr => exact .inr ⟨r, hr, rfl⟩

theorem hostStep_frame (s : State) (a : HostAccess) : HostFrame s (s.hostStep a) := by
  cases a with
  | read bytes off =>
    change HostFrame s (s.hostRead bytes off)
    obtain ⟨w, h | h | h⟩ := hostRead_cases s bytes off <;> rw [h] <;> exact ⟨rfl, rfl, rfl, rfl, rfl, rfl, rfl, rfl⟩
  | write bytes off v =>
    change HostFrame s (s.hostWrite bytes off v)
    obtain h | ⟨r, -, h⟩ := hostWrite_cases s bytes off v <;> rw [h]
    · exact ⟨rfl, rfl, rfl, rfl, rfl, rfl, rfl, rfl⟩
    · rw [csrStore_eq]; exact ⟨rfl, rfl, rfl, rfl, rfl, rfl, rfl, rfl⟩

end Sys2Proof.Machine
end

section
/-! PROOFS. The invariant of a sound state: each unit's steps keep the unit sound, the host keeps the registers and the queues
sound, and so every step keeps the whole (`stepKeepsInvariant`). -/

namespace Sys2Proof.Machine

/-! ## Delay line -/

@[simp] theorem overwrite_length (n base : Nat) (buf ds : List Dibit) : (overwrite n base buf ds).length = buf.length := by
  induction ds generalizing base buf with
  | nil => rfl
  | cons d ds ih => simp [overwrite, ih]

theorem resetDelayLine_ok {s : State} (hcap : 0 < s.cfg.dlCapacity) : s.resetDelayLine.dl.Ok s.cfg := by
  exact ⟨List.length_replicate, hcap⟩

theorem DlStep.ok {s : State} {i : Instr} {v : DelayLine} (h : DlStep s i v) (hok : s.dl.Ok s.cfg) : v.Ok s.cfg := by
  obtain ⟨hlen, hptr⟩ := hok
  have hcap : 0 < s.cfg.dlCapacity := by omega
  cases h with
  | idle => exact ⟨hlen, hptr⟩
  | insert => exact ⟨by simpa [DelayLine.insert] using hlen, Nat.mod_lt _ hcap⟩
  | update => exact ⟨by simpa using hlen, hptr⟩
  | adjust => exact ⟨hlen, Nat.mod_lt _ hcap⟩
  | reset | resetAll => exact resetDelayLine_ok hcap

/-! ## Envelope window -/

/-- Whatever a sample makes of the maximum and the gain, its magnitude takes the slot and the pointer advances (41_gain.md
R136). -/
theorem Envelope.enter_eq (r : ConfigRegs) (e : Envelope) (m : Word) :
    e.enter r m = { e with
      win := e.win.set e.wptr m, wptr := (e.wptr + 1) % e.w
      max := (e.enter r m).max, gain := (e.enter r m).gain } := by
  unfold Envelope.enter
  dsimp only
  split
  · rfl
  · split <;> rfl

theorem Envelope.enter_ok {c : Config} {e : Envelope} (r : ConfigRegs) (m : Word) (h : e.Ok c) : (e.enter r m).Ok c := by
  obtain ⟨hlen, hw, hmax, -⟩ := h
  rw [Envelope.enter_eq]
  exact ⟨by simpa using hlen, hw, hmax, Nat.mod_lt _ hw⟩

theorem envelopeLoop_ok {c : Config} {e : Envelope} (r : ConfigRegs) (zs : List (Word × Word)) (h : e.Ok c) :
    (envelopeLoop r e zs).1.Ok c := by
  induction zs generalizing e with
  | nil => exact h
  | cons z zs ih => exact ih (Envelope.enter_ok r _ h)

theorem resetEg_ok {s : State} (hwin : 1 ≤ s.csr.egWindow.toNat ∧ s.csr.egWindow.toNat ≤ s.cfg.maxEnvWindow) :
    s.resetEg.eg.Ok s.cfg := by
  exact ⟨List.length_replicate, hwin.1, hwin.2, hwin.1⟩

/-- RESET_ALL's envelope reset: EGAIN.RESET's value, or a drawn one with the flag set. -/
theorem resetEgOrPoison_ok {s : State} (hwin : 1 ≤ s.csr.egWindow.toNat ∧ s.csr.egWindow.toNat ≤ s.cfg.maxEnvWindow) :
    s.resetEgOrPoison.eg.Ok s.cfg := by
  cases hl : s.csr.legalEg with
  | true => rw [resetEgOrPoison_of_legal hl]; exact resetEg_ok hwin
  | false =>
    rw [resetEgOrPoison_of_illegal hl]
    exact ⟨drawList_length _ _, hwin.1, hwin.2, hwin.1⟩

theorem poisonEg_ok {s : State} (h : Word) (cause : Bool) (n : Nat) (hok : s.eg.Ok s.cfg) :
    (s.poisonEg h cause n).eg.Ok s.cfg := by
  obtain ⟨hlen, hw, hmax, hptr⟩ := hok
  rw [poisonEg_eq]
  exact ⟨by simp; omega, hw, hmax, Nat.mod_lt _ hw⟩

theorem EgStep.ok {s : State} {i : Instr} {v : Envelope} (h : EgStep s i v) (hok : s.eg.Ok s.cfg)
    (hwin : 1 ≤ s.csr.egWindow.toNat ∧ s.csr.egWindow.toNat ≤ s.cfg.maxEnvWindow) : v.Ok s.cfg := by
  cases h with
  | idle => exact hok
  | normal => exact envelopeLoop_ok (e := { s.eg with gain := _ }) _ _ hok
  | poisoned cause => exact poisonEg_ok _ cause _ hok
  | reset => exact resetEg_ok hwin
  | resetAll =>
    have hrep := resetPgOrPoison_report s
    have hok := resetEgOrPoison_ok (s := s.resetPgOrPoison) (by rw [hrep.csr, hrep.cfg]; exact hwin)
    rwa [hrep.cfg] at hok

/-! ## Filters -/

section
variable {c : Config} {k : Bank}

theorem Bank.shift_ok {x : Word} (hx : F32.finite x = true) (h : k.Ok c) : (k.shift x).Ok c := by
  obtain ⟨hcoef, hhist, hvalid, hfin⟩ := h
  refine ⟨hcoef, by simpa [Bank.shift] using hhist, hvalid, fun hp y hy => ?_⟩
  obtain rfl | hy := List.mem_cons.mp (List.mem_of_mem_take hy)
  · exact hx
  · exact hfin hp y hy

theorem firLoop_ok {xs : List Word} (hxs : ∀ x ∈ xs, F32.finite x = true) (h : k.Ok c) : (firLoop k xs).1.Ok c := by
  induction xs generalizing k with
  | nil => exact h
  | cons x xs ih =>
    rw [List.forall_mem_cons] at hxs
    exact ih hxs.2 (Bank.shift_ok hxs.1 h)

theorem Bank.poisoned_ok (d : Nat) (h : k.Ok c) : (k.poisoned d).Ok c := by
  obtain ⟨hcoef, hhist, hvalid, -⟩ := h
  exact ⟨hcoef, by simpa [Bank.poisoned] using hhist, hvalid, fun hp => by cases hp⟩

theorem Bank.clear_ok (h : k.Ok c) : (k.clear c).Ok c := by
  obtain ⟨hcoef, -, hvalid, -⟩ := h
  refine ⟨hcoef, by simp [Bank.clear], hvalid, fun _ x hx => ?_⟩
  rw [List.eq_of_mem_replicate hx]; decide

/-- The range check of FILT.LOAD, clause by clause (42_filter.md R160). -/
theorem loadLegal_iff {b : Bool} {hs : List Word} :
    loadLegal c b hs = true ↔
      1 ≤ hs.length ∧ hs.length ≤ c.maxTaps ∧ (∀ h ∈ hs, F32.finite h = true) ∧ (b = true → symmetric hs = true) := by
  cases b <;> simp [loadLegal, and_assoc]

@[simp] theorem Bank.load_taps_coef (k : Bank) (hs : List Word) : (k.load hs).coef.take (k.load hs).taps = hs := by
  simp [Bank.load]

theorem Bank.load_ok {b : Bool} {hs : List Word} (hlegal : loadLegal c b hs = true) (h : k.Ok c) : (k.load hs).Ok c := by
  obtain ⟨hcoef, hhist, -, hfin⟩ := h
  obtain ⟨hpos, hlen, hfinite, -⟩ := loadLegal_iff.mp hlegal
  refine ⟨by simp [Bank.load]; omega, hhist, fun _ => ⟨hpos, hlen, ?_⟩, hfin⟩
  rwa [Bank.load_taps_coef]

end

/-- "mandated fallback": the id taken exists, since id 0 does (42_filter.md R166). -/
theorem implOrScalar_lt {c : Config} (id : BitVec 3) (h : 1 ≤ c.numFilterImpls) :
    (implOrScalar c id).toNat < c.numFilterImpls := by
  unfold implOrScalar; split
  · assumption
  · exact h

theorem FiltStep.ok {s : State} {i : Instr} {v : Filters} (h : FiltStep s i v) (hok : s.filt.Ok s.cfg)
    (himpls : 1 ≤ s.cfg.numFilterImpls) : v.Ok s.cfg := by
  obtain ⟨hfir, hhb, hsym, hfi, hhi⟩ := hok
  cases h with
  | idle => exact ⟨hfir, hhb, hsym, hfi, hhi⟩
  | @load b pay hlegal =>
    cases b with
    | false => exact ⟨Bank.load_ok hlegal hfir, hhb, hsym, hfi, hhi⟩
    | true =>
      have hsymLoad := (loadLegal_iff.mp hlegal).2.2.2 rfl
      exact ⟨hfir, Bank.load_ok hlegal hhb, fun _ => by simpa [Filters.setBank] using hsymLoad, hfi, hhi⟩
  | firNormal _ _ hfinite => exact ⟨firLoop_ok hfinite hfir, hhb, hsym, hfi, hhi⟩
  | firPoisoned _ d => exact ⟨Bank.poisoned_ok d hfir, hhb, hsym, hfi, hhi⟩
  | @hbNormal pay _ _ hfinite =>
    have hsame := SameLoad.firLoop s.filt.hb pay
    refine ⟨hfir, hbLoop_bank _ _ _ ▸ firLoop_ok hfinite hhb, ?_, hfi, hhi⟩
    dsimp only
    rwa [hbLoop_bank, hsame.coef, hsame.taps, hsame.valid]
  | hbPoisoned _ d => exact ⟨hfir, Bank.poisoned_ok d hhb, hsym, hfi, hhi⟩
  | reset | resetAll => exact ⟨Bank.clear_ok hfir, Bank.clear_ok hhb, hsym, hfi, hhi⟩
  | select => exact ⟨hfir, hhb, hsym, implOrScalar_lt _ himpls, implOrScalar_lt _ himpls⟩

/-! ## Correlator -/

theorem Correlator.tpl_set_ok {c : Config} {q : Correlator} {t : Template} (k : Nat) (ht : t.Ok c) (h : q.Ok c) :
    Correlator.Ok c { q with tpl := q.tpl.set k t } := by
  obtain ⟨hlen, hall⟩ := h
  refine ⟨by simpa using hlen, fun u hu => ?_⟩
  obtain hu | rfl := List.mem_or_eq_of_mem_set hu
  · exact hall u hu
  · exact ht

theorem SyncStep.ok {s : State} {i : Instr} {v : Correlator} (h : SyncStep s i v) (hok : s.sync.Ok s.cfg) :
    v.Ok s.cfg := by
  cases h with
  | idle => exact hok
  | clear t hv => exact Correlator.tpl_set_ok _ (fun hv' => absurd (hv.symm.trans hv') (by decide)) hok
  | @load k ndib tol v pay hlegal =>
    refine Correlator.tpl_set_ok _ (fun _ => ?_) hok
    simp only [templateLegal, Bool.and_eq_true, decide_eq_true_iff] at hlegal
    obtain ⟨⟨hpos, hmax⟩, hcap⟩ := hlegal
    exact ⟨hpos, hmax, hcap, tol.isLt, by simp⟩
  | correlated q hq => rwa [Correlator.Ok, hq]
  | reset | resetAll => exact hok

/-! ## Packet sequencer -/

theorem Sequencer.reset_ok : Sequencer.reset.Ok := by decide

theorem headerBtf_le (m : Header) : headerBtf m ≤ Config.maxBlocks := by
  unfold headerBtf headerField Config.maxBlocks; omega

theorem Sequencer.start_ok (m : Header) (herr : BitVec 8) : (Sequencer.start m herr).Ok := by
  have hbtf := headerBtf_le m
  unfold Sequencer.start
  split <;> simp [Sequencer.Ok, Sequencer.StateOk] <;> omega

theorem Sequencer.add_ok {q : Sequencer} {b : Block} (hidle : q.state ≠ .idle) (hcomplete : q.state ≠ .complete)
    (hb : b.data.length = b.oct.toNat) (h : q.Ok) : (q.add b).Ok := by
  obtain ⟨-, hdecl, hcount, ⟨-, hheader, haccum, -⟩, hblk⟩ := h
  have hlt : q.recv < q.decl := by
    cases hs : q.state with
    | idle => exact absurd hs hidle
    | complete => exact absurd hs hcomplete
    | headerReceived => have := hheader hs; omega
    | accumulating => exact (haccum hs).2
  refine ⟨hlt, hdecl, by simp [Sequencer.add, hcount], ?_, ?_⟩
  · unfold Sequencer.add Sequencer.StateOk
    dsimp only
    split
    · simpa
    · simp; omega
  · intro x hx
    obtain hx | hx := List.mem_append.mp hx
    · exact hblk x hx
    · rw [List.mem_singleton.mp hx]; exact hb

theorem PsStep.ok {s : State} {i : Instr} {v : Sequencer} (h : PsStep s i v) (hok : s.ps.Ok) : v.Ok := by
  cases h with
  | idle => exact hok
  | start => exact Sequencer.start_ok _ _
  | add hidle hcomplete => exact Sequencer.add_ok hidle hcomplete (by simp) hok
  | reset | resetAll => exact Sequencer.reset_ok

/-! ## Registers, CA and the queues -/

theorem windowAfterWrite_ok {c : Config} {old : BitVec 16} (w : Word)
    (h : 1 ≤ old.toNat ∧ old.toNat ≤ c.maxEnvWindow) :
    1 ≤ (windowAfterWrite c old w).toNat ∧ (windowAfterWrite c old w).toNat ≤ c.maxEnvWindow := by
  unfold windowAfterWrite
  dsimp only
  split
  · assumption
  · exact h

theorem Assembly.take_ok {c : Config} {a : Assembly} (w : Word) (hc : a.isComplete = false) (h : a.Ok c) :
    (a.take c.maxPayloadWords w).Ok c := by
  cases a with
  | empty => trivial
  | header => simp [Assembly.take, Assembly.Ok]
  | body hh p pay due =>
    obtain ⟨hdue, hlen⟩ := h
    simp only [Assembly.isComplete, decide_eq_false_iff_not] at hc
    refine ⟨by omega, ?_⟩
    split
    · rw [List.length_append, List.length_singleton]; omega
    · omega

theorem receive_ca (s : State) : s.receive.ca = s.ca ∨ ∃ w, s.receive.ca = s.ca.take s.cfg.maxPayloadWords w := by
  unfold State.receive
  split
  · exact .inl rfl
  next w _ _ => exact .inr ⟨w, rfl⟩

theorem takeAccessError_ok {s : State} (h : s.errs.Ok) : s.takeAccessError.errs.Ok := by
  obtain ⟨hsticky, hlast⟩ := h
  refine ⟨?_, hlast⟩
  rw [takeAccessError_eq, BitVec.and_or_distrib_right, hsticky]
  decide

end Sys2Proof.Machine
end

section
/-! PROOFS. Every step keeps a sound state sound. -/

namespace Sys2Proof.Machine

/-! ## Commands -/

/-- The decoder's own checks are 1 to 3 of 30_encoding.md R92. -/
theorem decode_error {c : Config} {h p : Word} {pay : List Word} {e : ErrCode} (hd : decode c h p pay = .error e) :
    e = .illegalCmd ∨ e = .lengthLimit ∨ e = .reservedArg := by
  unfold decode at hd
  split at hd
  · cases hd; exact .inl rfl
  split at hd
  · cases hd; exact .inr (.inl rfl)
  split at hd
  · cases hd; exact .inr (.inr rfl)
  · cases hd

/-- The words of a complete command have the effect of a command; a decode reject reports and no more. -/
theorem runWords_effect {s u : State} {h p : Word} {pay : List Word} (hrun : s.runWords h p pay = .next u) :
    ∃ i, Effect i s u := by
  unfold State.runWords at hrun
  split at hrun
  next i _ => exact ⟨i, exec_effect hrun⟩
  next e hd =>
    cases hrun
    have he : e ≠ .csrAccess := by obtain rfl | rfl | rfl := decode_error hd <;> decide
    exact ⟨.nop pay, .of_report (.takeError s h he)⟩

theorem Effect.finish_inv {i : Instr} {s u : State} (h : Effect i s u) (hinv : s.Inv)
    (hroom : u.evq.length ≤ u.cfg.evqDepth) : u.finish.Inv := by
  obtain ⟨hlegal, hdl, heg, hfilt, hsync, hps, -, herrs, hwin, hcmdq, -⟩ := hinv
  have himpls : 1 ≤ s.cfg.numFilterImpls := by
    simp only [Config.legal, Config.capacitiesLegal, Bool.and_eq_true, decide_eq_true_iff] at hlegal
    omega
  refine ⟨?_, ?_, ?_, ?_, ?_, h.ps.ok hps, trivial, h.errs herrs, ?_, ?_, hroom⟩
  · exact h.cfg ▸ hlegal
  · exact h.cfg ▸ h.dl.ok hdl
  · exact h.cfg ▸ h.eg.ok heg hwin
  · exact h.cfg ▸ h.filt.ok hfilt himpls
  · exact h.cfg ▸ h.sync.ok hsync
  · exact h.cfg ▸ h.csr ▸ hwin
  · exact h.cfg ▸ h.cmdq ▸ hcmdq

/-! ## Receiving -/

theorem receive_inv {s : State} (hc : s.ca.isComplete = false) (hinv : s.Inv) : s.receive.Inv := by
  unfold State.receive
  split
  · exact hinv
  next w rest hq =>
    obtain ⟨hlegal, hdl, heg, hfilt, hsync, hps, hca, herrs, hwin, hcmdq, hevq⟩ := hinv
    rw [hq, List.length_cons] at hcmdq
    exact ⟨hlegal, hdl, heg, hfilt, hsync, hps, Assembly.take_ok w hc hca, herrs, hwin, Nat.le_of_succ_le hcmdq, hevq⟩

/-! ## The host -/

theorem hostRead_inv {s : State} (bytes : Nat) (off : BitVec 12) (hinv : s.Inv) : (s.hostRead bytes off).Inv := by
  obtain ⟨hlegal, hdl, heg, hfilt, hsync, hps, hca, herrs, hwin, hcmdq, hevq⟩ := hinv
  obtain ⟨w, h | h | h⟩ := hostRead_cases s bytes off <;> rw [h]
  · exact ⟨hlegal, hdl, heg, hfilt, hsync, hps, hca, herrs, hwin, hcmdq, hevq⟩
  · exact ⟨hlegal, hdl, heg, hfilt, hsync, hps, hca, takeAccessError_ok herrs, hwin, hcmdq, hevq⟩
  · have htail : s.evq.tail.length ≤ s.cfg.evqDepth := (List.tail_sublist _).length_le.trans hevq
    exact ⟨hlegal, hdl, heg, hfilt, hsync, hps, hca, herrs, hwin, hcmdq, htail⟩

/-- A store that is no push, or a push with room, keeps the registers and CMDQ sound. -/
theorem csrStore_inv {s : State} {r : Csr} (v : Word) (hroom : r = .cmdqPush → s.cmdq.length < s.cfg.cmdqDepth)
    (hinv : s.Inv) : (s.csrStore r v).Inv := by
  obtain ⟨hlegal, hdl, heg, hfilt, hsync, hps, hca, ⟨hsticky, hlast⟩, hwin, hcmdq, hevq⟩ := hinv
  rw [csrStore_eq]
  refine ⟨hlegal, hdl, heg, hfilt, hsync, hps, hca, ⟨?_, hlast⟩, ?_, ?_, hevq⟩ <;> dsimp only
  · obtain h | h := csrStore_sticky s r v <;> rw [h]
    · exact hsticky
    · rw [BitVec.and_assoc, BitVec.and_comm (~~~v), ← BitVec.and_assoc, hsticky, BitVec.zero_and]
  · obtain h | h := csrStore_egWindow s r v <;> rw [h]
    · exact hwin
    · exact windowAfterWrite_ok v hwin
  · obtain h | ⟨hr, h⟩ := csrStore_cmdq s r v <;> rw [h]
    · exact hcmdq
    · rw [List.length_append, List.length_singleton]
      exact hroom hr

theorem hostWrite_inv {s : State} {bytes : Nat} {off : BitVec 12} {v : Word}
    (hfree : s.held (.write bytes off v) = false) (hinv : s.Inv) : (s.hostWrite bytes off v).Inv := by
  obtain h | ⟨r, hr, h⟩ := hostWrite_cases s bytes off v <;> rw [h]
  · obtain ⟨hlegal, hdl, heg, hfilt, hsync, hps, hca, herrs, hwin, hcmdq, hevq⟩ := hinv
    exact ⟨hlegal, hdl, heg, hfilt, hsync, hps, hca, takeAccessError_ok herrs, hwin, hcmdq, hevq⟩
  · refine csrStore_inv v (fun hpush => ?_) hinv
    simpa [State.held, hr, hpush] using hfree

/-! ## Power-on -/

theorem Bank.reset_ok (c : Config) : (Bank.reset c).Ok c := by
  refine ⟨by simp [Bank.reset], by simp [Bank.reset], nofun, fun _ x hx => ?_⟩
  rw [List.eq_of_mem_replicate hx]; decide

theorem Template.reset_ok (c : Config) : Template.reset.Ok c := nofun

/-- The power-on state of a legal configuration is sound (70_reset_and_hazards.md R310). -/
theorem resetOf_inv {c : Config} (h : c.legal = true) : (State.resetOf c).Inv := by
  have hbounds : 0 < c.dlCapacity ∧ 0 < c.numFilterImpls ∧
      1 ≤ c.egWindowRst.toNat ∧ c.egWindowRst.toNat ≤ c.maxEnvWindow := by
    simp only [Config.legal, Config.capacitiesLegal, Config.resetsLegal, Bool.and_eq_true, decide_eq_true_iff] at h
    omega
  obtain ⟨hdl, himpls, hwin⟩ := hbounds
  have htpl : Correlator.Ok c (State.resetOf c).sync := by
    refine ⟨by simp [State.resetOf], fun t ht => ?_⟩
    rw [List.eq_of_mem_replicate ht]
    exact Template.reset_ok c
  exact ⟨h, ⟨List.length_replicate, hdl⟩, ⟨List.length_replicate, hwin.1, hwin.2, hwin.1⟩,
    ⟨Bank.reset_ok c, Bank.reset_ok c, nofun, himpls, himpls⟩, htpl, Sequencer.reset_ok, trivial,
    ⟨BitVec.zero_and, Nat.zero_le _⟩, hwin, Nat.zero_le _, Nat.zero_le _⟩

/-- Settles O8, by what a step can do. -/
theorem stepKeepsInvariant : Obligations.StepKeepsInvariant := by
  intro s t hinv hstep
  cases step_cases hstep with
  | receive rest hc => exact receive_inv (s := s.after rest) hc hinv
  | hold => exact hinv
  | perform rest hca hrun hroom =>
    obtain ⟨i, heff⟩ := runWords_effect hrun
    exact heff.finish_inv hinv hroom
  | host rest a hfree =>
    cases a with
    | read bytes off => exact hostRead_inv (s := s.after rest) bytes off hinv
    | write bytes off v => exact hostWrite_inv (s := s.after rest) hfree hinv
  | powerOn => exact resetOf_inv hinv.1

end Sys2Proof.Machine
end

section
/-! PROOFS. The envelope law: outside poison the window holds finite magnitudes, none negative, and EG_MAX is their maximum.
On such words the binary32 comparisons are those of the words as numbers. -/

namespace Sys2Proof.Machine

/-! ## Words that are not negative -/

namespace F32

theorem mag_eq_toNat {a : Word} (h : sign a = false) : mag a = a.toNat := by
  rw [sign, BitVec.msb_eq_false_iff_two_mul_lt] at h
  simp [mag, BitVec.extractLsb'_toNat]
  omega

theorem lt_iff_toNat {a b : Word} (ha : finite a = true) (hb : finite b = true) (ha0 : sign a = false)
    (hb0 : sign b = false) : lt a b = true ↔ a.toNat < b.toNat := by
  simp [lt, key, not_nan_of_finite, ha, hb, ha0, hb0, mag_eq_toNat]

theorem eq_iff_toNat {a b : Word} (ha : finite a = true) (hb : finite b = true) (ha0 : sign a = false)
    (hb0 : sign b = false) : eq a b = true ↔ a.toNat = b.toNat := by
  simp [eq, key, not_nan_of_finite, ha, hb, ha0, hb0, mag_eq_toNat]

/-- Neither a NaN nor negative. -/
abbrev Nonneg (a : Word) : Prop := isNaN a = false ∧ sign a = false

theorem nonneg_make {m : Nat} (h : m ≤ infMag) : Nonneg (make false m) :=
  ⟨by simpa [isNaN, mag_make false h] using h, sign_make _ _⟩

theorem nonneg_square {a : Word} (h : finite a = true) : Nonneg (mul a a) := by
  rw [mul_of_finite h h, bne_self_eq_false]
  exact nonneg_make (roundMag_le_infMag _ _)

theorem nonneg_add {a b : Word} (ha : Nonneg a) (hb : Nonneg b) : Nonneg (add a b) := by
  have hsum : ¬ value a + value b < 0 := by
    have := value_cases a
    have := value_cases b
    simp only [ha.2, hb.2, Bool.false_eq_true, false_and, or_false, true_and] at *
    omega
  unfold add
  simp only [ha.1, hb.1, ha.2, hb.2, hsum, bne_self_eq_false, Bool.and_false, Bool.or_false, Bool.false_eq_true, if_false,
    decide_false]
  split
  · exact ha
  split
  · exact hb
  split
  · exact nonneg_make (Nat.zero_le _)
  · exact nonneg_make (roundMag_le_infMag _ _)

theorem sign_sqrt {a : Word} (h : Nonneg a) : sign (sqrt a) = false := by
  unfold sqrt
  simp only [h.1, h.2, Bool.false_eq_true, if_false]
  split
  · exact h.2
  split
  · exact h.2
  · exact sign_make _ _

end F32

/-- A magnitude is not negative (41_gain.md R136). -/
theorem sign_magnitude {z : Word × Word} (hi : F32.finite z.1 = true) (hq : F32.finite z.2 = true) :
    F32.sign (magnitude z) = false :=
  F32.sign_sqrt (F32.nonneg_add (F32.nonneg_square hi) (F32.nonneg_square hq))

/-- The two words of a sample stand in the payload. -/
theorem mem_of_mem_complexSamples {ws : List Word} {z : Word × Word} (h : z ∈ complexSamples ws) : z.1 ∈ ws ∧ z.2 ∈ ws := by
  induction ws using complexSamples.induct with
  | case1 i q rest ih =>
    obtain rfl | h := List.mem_cons.mp h
    · simp
    · simp [ih h]
  | case2 ws hshort => rw [complexSamples.eq_2 _ hshort] at h; cases h

/-! ## The maximum of a window -/

/-- A finite word that is not negative: a window entry outside poison (10_state.md R25). -/
abbrev Magnitude (m : Word) : Prop := F32.finite m = true ∧ F32.sign m = false

theorem magnitude_zero : Magnitude 0 := by decide

theorem Magnitude.lt_iff {a b : Word} (ha : Magnitude a) (hb : Magnitude b) : F32.lt a b = true ↔ a.toNat < b.toNat :=
  F32.lt_iff_toNat ha.1 hb.1 ha.2 hb.2

/-- `b` is a largest word of `l`. -/
structure IsPeak (l : List Word) (b : Word) : Prop where
  mem : b ∈ l
  le : ∀ m ∈ l, m.toNat ≤ b.toNat

theorem IsPeak.unique {l : List Word} {a b : Word} (ha : IsPeak l a) (hb : IsPeak l b) : a = b :=
  BitVec.eq_of_toNat_eq ((hb.le a ha.mem).antisymm (ha.le b hb.mem))

theorem foldl_max2_isPeak {a : Word} {l : List Word} (ha : Magnitude a) (hl : ∀ m ∈ l, Magnitude m) :
    IsPeak (a :: l) (l.foldl F32.max2 a) := by
  induction l generalizing a with
  | nil => exact ⟨List.mem_singleton_self a, by simp⟩
  | cons x l ih =>
    rw [List.forall_mem_cons] at hl
    have hlt := ha.lt_iff hl.1
    rw [List.foldl_cons, F32.max2]
    split
    case isTrue h =>
      obtain ⟨hmem, hle⟩ := ih hl.1 hl.2
      exact ⟨List.mem_cons_of_mem _ hmem,
        List.forall_mem_cons.mpr ⟨(hlt.mp h).le.trans (hle x List.mem_cons_self), hle⟩⟩
    case isFalse h =>
      obtain ⟨hmem, hle⟩ := ih ha hl.2
      rw [List.forall_mem_cons] at hle
      refine ⟨?_, List.forall_mem_cons.mpr ⟨hle.1, List.forall_mem_cons.mpr ⟨?_, hle.2⟩⟩⟩
      · simp only [List.mem_cons] at hmem ⊢; tauto
      · exact (Nat.le_of_not_lt (hlt.not.mp h)).trans hle.1

/-- The rescan finds the largest entry, or 0 in an empty window. -/
theorem eq_rescan_iff {win : List Word} {w : Nat} {b : Word} (h : ∀ m ∈ win.take w, Magnitude m) :
    b = rescan win w ↔ IsPeak (0 :: win.take w) b :=
  ⟨fun hb => hb ▸ foldl_max2_isPeak magnitude_zero h, fun hb => hb.unique (foldl_max2_isPeak magnitude_zero h)⟩

/-! ## The steps of the envelope unit -/

/-- A new magnitude above the maximum is the maximum of the window it enters. -/
theorem IsPeak.set_of_lt {l : List Word} {p : Nat} {b m : Word} (h : IsPeak (0 :: l) b) (hp : p < l.length)
    (hm : b.toNat < m.toNat) : IsPeak (0 :: l.set p m) m := by
  refine ⟨List.mem_cons_of_mem _ (List.mem_set hp m), List.forall_mem_cons.mpr ⟨Nat.zero_le _, fun x hx => ?_⟩⟩
  obtain hx | rfl := List.mem_or_eq_of_mem_set hx
  · exact (h.le x (List.mem_cons_of_mem _ hx)).trans hm.le
  · exact le_rfl

/-- The maximum stays when an entry other than it gives way to one not above it. -/
theorem IsPeak.set_of_ne {l : List Word} {p : Nat} {b m : Word} (h : IsPeak (0 :: l) b) (hp : p < l.length)
    (hout : l[p] ≠ b) (hm : m.toNat ≤ b.toNat) : IsPeak (0 :: l.set p m) b := by
  constructor
  · obtain rfl | hmem := List.mem_cons.mp h.mem
    · exact List.mem_cons_self
    obtain ⟨j, hj, rfl⟩ := List.getElem_of_mem hmem
    have hne : p ≠ j := by rintro rfl; exact hout rfl
    rw [← List.getElem_set_ne hne (a := m) (by simpa using hj)]
    exact List.mem_cons_of_mem _ (List.getElem_mem _)
  · refine List.forall_mem_cons.mpr ⟨Nat.zero_le _, fun x hx => ?_⟩
    obtain hx | rfl := List.mem_or_eq_of_mem_set hx
    · exact h.le x (List.mem_cons_of_mem _ hx)
    · exact hm

theorem Envelope.enter_law {c : Config} {e : Envelope} (r : ConfigRegs) {m : Word} (hm : Magnitude m) (hok : e.Ok c)
    (hlaw : e.Law) : (e.enter r m).Law := by
  rw [Envelope.enter_eq]
  intro hp
  obtain ⟨hwin, hmax⟩ := hlaw hp
  obtain ⟨hlen, -, hw, hptr⟩ := hok
  have hwin' : ∀ x ∈ (e.win.set e.wptr m).take e.w, Magnitude x := by
    intro x hx
    rw [List.take_set] at hx
    obtain hx | rfl := List.mem_or_eq_of_mem_set hx
    · exact hwin x hx
    · exact hm
  have hpeak := (eq_rescan_iff hwin).mp hmax
  have hmaxMag : Magnitude e.max := List.forall_mem_cons.mpr ⟨magnitude_zero, hwin⟩ _ hpeak.mem
  have hlt := hmaxMag.lt_iff hm
  have hslot : e.wptr < (e.win.take e.w).length := by rw [List.length_take]; omega
  have hej : e.win.getD e.wptr 0 = (e.win.take e.w)[e.wptr] := by simp [List.getD, show e.wptr < e.win.length by omega]
  refine ⟨hwin', ?_⟩
  unfold Envelope.enter
  dsimp only
  split
  case isTrue h =>
    rw [eq_rescan_iff hwin', List.take_set]
    exact hpeak.set_of_lt hslot (hlt.mp h)
  split
  case isTrue => rfl
  case isFalse h hne =>
    rw [eq_rescan_iff hwin', List.take_set]
    refine hpeak.set_of_ne hslot (fun heq => hne ?_) (Nat.le_of_not_lt (hlt.not.mp h))
    rw [hej, heq, F32.eq_iff_toNat hmaxMag.1 hmaxMag.1 hmaxMag.2 hmaxMag.2]

theorem envelopeLoop_law {c : Config} {e : Envelope} (r : ConfigRegs) {zs : List (Word × Word)}
    (hzs : ∀ z ∈ zs, Magnitude (magnitude z)) (hok : e.Ok c) (hlaw : e.Law) : (envelopeLoop r e zs).1.Law := by
  induction zs generalizing e with
  | nil => exact hlaw
  | cons z zs ih =>
    rw [List.forall_mem_cons] at hzs
    exact ih hzs.2 (Envelope.enter_ok r _ hok) (Envelope.enter_law r hzs.1 hok hlaw)

/-- The law of an envelope whose window and maximum are all +0.0. -/
theorem Envelope.law_of_zero {e : Envelope} {n : Nat} (hwin : e.win = List.replicate n 0) (hmax : e.max = 0) : e.Law := by
  intro _
  have hzero : ∀ m ∈ e.win.take e.w, m = 0 := by
    rw [hwin]; exact fun m hm => List.eq_of_mem_replicate (List.mem_of_mem_take hm)
  have hmag : ∀ m ∈ e.win.take e.w, Magnitude m := fun m hm => hzero m hm ▸ magnitude_zero
  refine ⟨hmag, (eq_rescan_iff hmag).mpr ⟨hmax ▸ List.mem_cons_self, List.forall_mem_cons.mpr ⟨Nat.zero_le _, ?_⟩⟩⟩
  intro m hm
  rw [hzero m hm, hmax]

theorem resetEg_law (s : State) : s.resetEg.eg.Law := Envelope.law_of_zero rfl rfl

theorem Envelope.law_of_poison {e : Envelope} (h : e.poison = true) : e.Law := fun hp =>
  absurd (hp.symm.trans h) (by decide)

theorem EgStep.law {s : State} {i : Instr} {v : Envelope} (h : EgStep s i v) (hok : s.eg.Ok s.cfg) (hlaw : s.eg.Law) :
    v.Law := by
  cases h with
  | idle => exact hlaw
  | normal _ _ hfinite hmags =>
    refine envelopeLoop_law (e := { s.eg with gain := _ }) _ (fun z hz => ⟨hmags z hz, ?_⟩) hok hlaw
    obtain ⟨hi, hq⟩ := mem_of_mem_complexSamples hz
    exact sign_magnitude (hfinite _ hi) (hfinite _ hq)
  | poisoned => exact Envelope.law_of_poison rfl
  | reset => exact resetEg_law s
  | resetAll =>
    cases hl : s.resetPgOrPoison.csr.legalEg with
    | true => rw [resetEgOrPoison_of_legal hl]; exact resetEg_law _
    | false => rw [resetEgOrPoison_of_illegal hl]; exact Envelope.law_of_poison rfl

theorem receive_eg (s : State) : s.receive.eg = s.eg := by unfold State.receive; split <;> rfl

/-- Settles O27: only a command changes the envelope unit, by a step of the unit, and power-on. -/
theorem envelopeLawKept : Obligations.EnvelopeLawKept := by
  intro s t hinv hlaw hstep
  obtain ⟨-, -, hok, -⟩ := hinv
  cases step_cases hstep with
  | receive rest => rwa [receive_eg]
  | hold => exact hlaw
  | perform rest hca hrun hroom =>
    obtain ⟨i, heff⟩ := runWords_effect hrun
    exact heff.eg.law (s := s.after rest) hok hlaw
  | host rest a hfree => rw [(hostStep_frame (s.after rest) a).eg]; exact hlaw
  | powerOn => exact Envelope.law_of_zero rfl rfl

end Sys2Proof.Machine
end

section
/-! PROOFS. The engine's turns: a complete command performed or rejected, and the words of a command received one a step. -/

namespace Sys2Proof.Machine

/-! ## One engine turn -/

/-- The engine moves on its own turn and with no turn listed (log 3). -/
theorem step_of_engine {s : State} {rest : List Turn} (h : s.agenda = .engine :: rest ∨ (s.agenda = [] ∧ rest = [])) :
    step s = (s.after rest).engineStep := by
  obtain h | ⟨h, rfl⟩ := h
  · exact takeTurn_engine h
  · rw [State.after, ← h]; exact takeTurn_empty h

/-- With a complete command in CA the engine's turn performs it or holds. -/
theorem step_of_run {s u : State} {h p : Word} {pay : List Word} {rest : List Turn} (hca : s.ca = .body h p pay 0)
    (hturn : s.agenda = .engine :: rest ∨ (s.agenda = [] ∧ rest = []))
    (hrun : (s.after rest).runWords h p pay = .next u) :
    step s = .next (if u.cfg.evqDepth < u.evq.length then s.after rest else u.finish) := by
  rw [step_of_engine hturn, engineStep_complete (s := s.after rest) hca, performWords_of_run hrun]

/-- Settles O1: the words in CA run the decoded command. -/
theorem stepRunsDecodedCommand : Obligations.StepRunsDecodedCommand := by
  intro s t h p pay rest i hca hturn hd hexec
  exact step_of_run hca hturn (by simp only [State.runWords, hd, hexec])

/-- Settles O2: the words in CA make the error and no more; a code of the decoder is no sequencer anomaly. -/
theorem stepRejectsUndecodableWords : Obligations.StepRejectsUndecodableWords := by
  intro s h p pay rest e hca hturn hd
  have hrun : (s.after rest).runWords h p pay = .next ((s.after rest).takeError e h) := by
    simp only [State.runWords, hd]
  have hanomaly : e.isAnomaly = false := by obtain rfl | rfl | rfl := decode_error hd <;> rfl
  have hlen : ((s.after rest).takeError e h).evq.length = s.evq.length + 3 := by
    rw [takeError_evq, List.length_append, eventWords_length]; rfl
  rw [step_of_run hca hturn hrun, hlen, takeError_eq]
  simp [State.finish, Counters.countError, hanomaly, ErrorRegs.record, eventWords, EventType.code]

/-! ## Receiving a command -/

/-- A run goes on from the state that its first step gives. -/
theorem run_succ {s t : State} (k : Nat) (h : step s = .next t) :
    Host.Core.run Sys2Proof.core (k + 1) s = Host.Core.run Sys2Proof.core k t := by
  have h : Sys2Proof.core.step s = .next t := h
  simp only [Host.Core.run, h]

/-- `s` with the words `ws` in CMDQ and `a` in CA. -/
abbrev State.receiving (s : State) (ws : List Word) (a : Assembly) : State := { s with cmdq := ws, ca := a }

/-- Without a complete command in CA the engine takes the oldest word of CMDQ. -/
theorem engineStep_receiving (s : State) {a : Assembly} (w : Word) (ws : List Word) (hc : a.isComplete = false) :
    (s.receiving (w :: ws) a).engineStep = .next (s.receiving ws (a.take s.cfg.maxPayloadWords w)) :=
  engineStep_incomplete (s := s.receiving (w :: ws) a) hc

theorem step_receiving {s : State} {a : Assembly} (w : Word) (ws : List Word) (ha : s.agenda = [])
    (hc : a.isComplete = false) :
    step (s.receiving (w :: ws) a) = .next (s.receiving ws (a.take s.cfg.maxPayloadWords w)) :=
  (takeTurn_empty (s := s.receiving (w :: ws) a) ha).trans (engineStep_receiving s w ws hc)

/-- CA keeps the first `limit` of the payload words `done` received so far; one more word comes (30_encoding.md R91). -/
theorem Assembly.take_body (limit n : Nat) (h p w : Word) (done : List Word) :
    (Assembly.body h p (done.take limit) (n + 1)).take limit w = .body h p ((done ++ [w]).take limit) n := by
  rw [Assembly.take, List.length_take, List.take_append]
  split
  case isTrue hlt =>
    have hlen : done.length < limit := by omega
    rw [List.take_of_length_le (l := [w]) (by simp; omega)]
    rfl
  case isFalse hge =>
    have hlen : limit - done.length = 0 := by omega
    rw [hlen, List.take_zero, List.append_nil]
    rfl

/-- The payload words still due move into CA, one a step. -/
theorem run_receive_payload {s : State} (ha : s.agenda = []) (h p : Word) (done pay more : List Word) :
    Host.Core.run Sys2Proof.core pay.length
        (s.receiving (pay ++ more) (.body h p (done.take s.cfg.maxPayloadWords) pay.length)) =
      .next (s.receiving more (.body h p ((done ++ pay).take s.cfg.maxPayloadWords) 0)) := by
  induction pay generalizing done with
  | nil => rw [List.append_nil]; rfl
  | cons w pay ih =>
    have hstep := step_receiving (a := .body h p (done.take s.cfg.maxPayloadWords) (pay.length + 1)) w (pay ++ more) ha rfl
    rw [Assembly.take_body] at hstep
    refine (run_succ _ hstep).trans ((ih (done ++ [w])).trans ?_)
    rw [List.append_assoc]; rfl

/-- Settles O6: the header, the length, and then the payload. -/
theorem commandAssembly : Obligations.CommandAssembly := by
  intro s h p pay more ha hca hq hlen
  have hs : s = s.receiving (h :: p :: (pay ++ more)) .empty := by rw [← hq, ← hca]
  have hheader : step s = .next (s.receiving (p :: (pay ++ more)) (.header h)) :=
    (congrArg step hs).trans (step_receiving h _ ha rfl)
  have hlength : step (s.receiving (p :: (pay ++ more)) (.header h)) =
      .next (s.receiving (pay ++ more) (.body h p [] pay.length)) := hlen ▸ step_receiving p _ ha rfl
  have hpayload := run_receive_payload ha h p [] pay more
  rw [List.take_nil] at hpayload
  rw [Nat.add_comm, ← hlen]
  exact (run_succ _ hheader).trans ((run_succ _ hlength).trans hpayload)

end Sys2Proof.Machine
end

section
/-! PROOFS. The host's turns: the registers by their offsets, writes, held pushes and pops. -/

namespace Sys2Proof.Machine

/-! ## The registers and their offsets -/

/-- The byte offset of a register (10_state.md R31). -/
def Csr.offset : Csr → BitVec 12
  | .id => 0x000 | .rev => 0x004 | .status => 0x008 | .irqEn => 0x00C | .errSticky => 0x010 | .lastErr => 0x014
  | .lastErrCmd => 0x018 | .cntCmd => 0x01C | .cntErr => 0x020 | .cmdqPush => 0x024 | .cmdqFree => 0x028
  | .evqPop => 0x02C | .evqCount => 0x030 | .pgTarget => 0x040 | .pgMin => 0x044 | .pgMax => 0x048 | .pgCeil => 0x04C
  | .pgStep => 0x050 | .pgDecay => 0x054 | .pgInit => 0x058 | .egObj => 0x060 | .egFloor => 0x064 | .egWindow => 0x068
  | .pgGain => 0x070 | .pgPeak => 0x074 | .pgObj => 0x078 | .egGain => 0x07C | .egMax => 0x080 | .egWinActive => 0x084
  | .filtSel => 0x090 | .firTaps => 0x094 | .hbTaps => 0x098 | .hbPhase => 0x09C | .dlCap => 0x0A0 | .dlPtr => 0x0A4
  | .syncMiss => 0x0B0 | .syncLossThr => 0x0B4 | .syncLast => 0x0B8 | .syncTvalid => 0x0BC | .cntSyncMatch => 0x0C0
  | .cntSyncLost => 0x0C4 | .cntFecBlocks => 0x0C8 | .cntCorrected => 0x0CC | .cntCrcOk => 0x0D0 | .cntCrcFail => 0x0D4
  | .cntPackets => 0x0D8 | .cntPsAnomaly => 0x0DC | .psStat => 0x0F0 | .psBiterr => 0x0F4 | .psBits => 0x0F8
  | .psHdr0 => 0x0FC | .psHdr1 => 0x100 | .psHdr2 => 0x104

/-- A 32-bit access to a register's offset reaches the register. -/
theorem accessed_offset (r : Csr) : accessed 4 r.offset = some r := by cases r <;> rfl

/-- The registers but STATUS and EVQ_POP, in the order of their offsets. -/
def Csr.listed : List Csr :=
  [.id, .rev, .irqEn, .errSticky, .lastErr, .lastErrCmd, .cntCmd, .cntErr, .cmdqPush, .cmdqFree, .evqCount, .pgTarget,
   .pgMin, .pgMax, .pgCeil, .pgStep, .pgDecay, .pgInit, .egObj, .egFloor, .egWindow, .pgGain, .pgPeak, .pgObj, .egGain,
   .egMax, .egWinActive, .filtSel, .firTaps, .hbTaps, .hbPhase, .dlCap, .dlPtr, .syncMiss, .syncLossThr, .syncLast,
   .syncTvalid, .cntSyncMatch, .cntSyncLost, .cntFecBlocks, .cntCorrected, .cntCrcOk, .cntCrcFail, .cntPackets,
   .cntPsAnomaly, .psStat, .psBiterr, .psBits, .psHdr0, .psHdr1, .psHdr2]

theorem Csr.mem_listed_iff (r : Csr) : r ∈ Csr.listed ↔ r ≠ .status ∧ r ≠ .evqPop := by cases r <;> decide

/-- Every mapped offset is a register's. -/
theorem exists_offset {off : BitVec 12} (h : off.toNat ∈ mappedOffsets) : ∃ r : Csr, r.offset = off := by
  have hall : ∀ n ∈ mappedOffsets, ∃ r ∈ .status :: .evqPop :: Csr.listed, r.offset.toNat = n := by decide
  obtain ⟨r, -, hr⟩ := hall _ h
  exact ⟨r, BitVec.eq_of_toNat_eq hr⟩

/-! ## Writes -/

/-- A write to a register stores; a push needs room. -/
theorem step_write {s : State} (r : Csr) (v : Word) (rest : List Turn)
    (hroom : r = .cmdqPush → s.cmdq.length < s.cfg.cmdqDepth) :
    step (s.writing r.offset v rest) = .next ((s.after rest).csrStore r v) := by
  have hfree : (s.writing r.offset v rest).held (.write 4 r.offset v) = false := by
    simp only [State.held, accessed_offset, Bool.and_eq_false_imp, decide_eq_true_iff, decide_eq_false_iff_not,
      Nat.not_le, Option.some.injEq]
    exact hroom
  refine (takeTurn_host rfl hfree).trans (congrArg _ ?_)
  simp only [State.hostStep, State.hostWrite, accessed_offset]

/-- Where no store is stated, a write is ignored (10_state.md R39, R48). -/
theorem csrStore_of_ignored {s : State} {r : Csr} {v : Word}
    (h : r.offset.toNat ∉
      [0x00C, 0x010, 0x024, 0x040, 0x044, 0x048, 0x04C, 0x050, 0x054, 0x058, 0x060, 0x064, 0x068, 0x0B4]) :
    s.csrStore r v = s := by
  cases r with
  | irqEn | errSticky | cmdqPush | pgTarget | pgMin | pgMax | pgCeil | pgStep | pgDecay | pgInit | egObj | egFloor
  | egWindow | syncLossThr => exact absurd (by decide) h
  | _ => rfl

theorem windowAfterWrite_eq (c : Config) (old : BitVec 16) (v : Word) :
    windowAfterWrite c old v =
      if 1 ≤ v.toNat % 2 ^ 16 ∧ v.toNat % 2 ^ 16 ≤ c.maxEnvWindow then BitVec.ofNat 16 (v.toNat % 2 ^ 16) else old := by
  have hlow : (v.extractLsb' 0 16).toNat = v.toNat % 2 ^ 16 := by simp [BitVec.extractLsb'_toNat]
  rw [windowAfterWrite, ← hlow, BitVec.ofNat_toNat, BitVec.setWidth_eq]

/-- Settles O55, register by register. -/
theorem hostWrites : Obligations.HostWrites := by
  intro s v rest
  refine ⟨step_write .irqEn v rest nofun, step_write .errSticky v rest nofun,
    fun hroom => step_write .cmdqPush v rest fun _ => hroom, step_write .pgTarget v rest nofun,
    step_write .pgMin v rest nofun, step_write .pgMax v rest nofun, step_write .pgCeil v rest nofun,
    step_write .pgStep v rest nofun, step_write .pgDecay v rest nofun, step_write .pgInit v rest nofun,
    step_write .egObj v rest nofun, step_write .egFloor v rest nofun, ?_, step_write .syncLossThr v rest nofun,
    fun off hoff hignored => ?_⟩
  · dsimp only
    rw [← windowAfterWrite_eq]
    exact step_write .egWindow v rest nofun
  · obtain ⟨r, rfl⟩ := exists_offset hoff
    have hpush : r ≠ .cmdqPush := by rintro rfl; exact hignored (by decide)
    rw [step_write r v rest fun h => absurd h hpush, csrStore_of_ignored hignored]

/-- Settles O56: the held push stays while the engine receives, and then has room. -/
theorem heldPushWaits : Obligations.HeldPushWaits := by
  intro s w v ws rest hc hq hfull
  have hheld : (s.writing 0x024 v rest).held (.write 4 0x024 v) = true := by
    have hlen : s.cfg.cmdqDepth ≤ s.cmdq.length := by rw [hq, List.length_cons]; omega
    rw [State.held, show accessed 4 0x024 = some .cmdqPush from rfl]
    simpa using hlen
  have hreceive : step (s.writing 0x024 v rest) =
      .next ((s.receiving ws (s.ca.take s.cfg.maxPayloadWords w)).writing 0x024 v rest) := by
    refine (takeTurn_held rfl hheld).trans ?_
    have hengine := engineStep_receiving (s.writing 0x024 v rest) w ws hc
    rw [← hq] at hengine
    exact hengine
  have hpush := step_write (s := s.receiving ws (s.ca.take s.cfg.maxPayloadWords w)) .cmdqPush v rest
    fun _ => by dsimp only; omega
  exact (run_succ 1 hreceive).trans (run_succ 0 hpush)

/-! ## Pops -/

/-- A pop returns and removes the oldest event word (10_state.md R39). -/
theorem hostRead_evqPop {s : State} {w : Word} {ws : List Word} (h : s.evq = w :: ws) :
    s.hostRead 4 Csr.evqPop.offset = { s with evq := ws, hostReads := s.hostReads ++ [w] } := by
  simp only [State.hostRead, accessed_offset, if_true, h, List.isEmpty_cons, Bool.false_eq_true, if_false]
  simp only [State.returnWord, State.csrWord, h, List.tail_cons, List.headD_cons]

theorem step_pop {s : State} {w : Word} {ws : List Word} {rest : List Turn}
    (ha : s.agenda = .host (.read 4 0x02C) :: rest) (hevq : s.evq = w :: ws) :
    step s = .next { s with agenda := rest, evq := ws, hostReads := s.hostReads ++ [w] } :=
  (takeTurn_host ha rfl).trans (congrArg _ (hostRead_evqPop (s := s.after rest) hevq))

/-- Settles O57, by induction on the words popped. -/
theorem popsDeliverEventsInOrder : Obligations.PopsDeliverEventsInOrder := by
  intro s ws more rest hevq ha
  induction ws generalizing s with
  | nil =>
    rw [List.nil_append] at hevq
    rw [List.length_nil, List.replicate_zero, List.nil_append] at ha
    rw [← ha, ← hevq, List.append_nil]; rfl
  | cons w ws ih =>
    refine (run_succ _ (step_pop ha hevq)).trans ((ih _ rfl rfl).trans ?_)
    rw [List.append_assoc]; rfl

end Sys2Proof.Machine
end

section
/-! PROOFS. The turns to come and the words the host has read are not the block's: no command's result depends on them. -/

namespace Sys2Proof.Machine

/-- `s` with other turns to come and other words read by the host. -/
def State.withHost (s : State) (a : List Turn) (r : List Word) : State := { s with agenda := a, hostReads := r }

/-- A rule of the block that neither reads nor writes the turns and the host's reads. -/
abbrev IgnoresHost (body : State → State) : Prop :=
  ∀ (s : State) (a : List Turn) (r : List Word), body (s.withHost a r) = (body s).withHost a r

/-- What DL.INSERT does before a correlation looks at the line: the insert, and with E = 1 the event of the ejected symbol
(43_delay_line.md R191). -/
def State.insertSymbol (h : Word) (sym : Dibit) (e : Bool) (s : State) : State :=
  if e then (s.setDl (s.dl.insert s.cfg sym)).emit .dlEjected h ((s.dl.buf.getD s.dl.ptr 0).setWidth 16) []
  else s.setDl (s.dl.insert s.cfg sym)

namespace IgnoresHost

/-- A choice between two such rules by a condition on the block's own fields. -/
theorem guard {p : State → Prop} [DecidablePred p] {f g : State → State}
    (hp : ∀ s a r, p (s.withHost a r) = p s) (hf : IgnoresHost f) (hg : IgnoresHost g) :
    IgnoresHost fun s => if p s then f s else g s := by
  intro s a r
  by_cases h : p s
  · simp only [hp, h, if_true, hf s a r]
  · simp only [hp, h, if_false, hg s a r]

theorem poisonPg (h : Word) (cause : Bool) (n : Nat) : IgnoresHost fun s => s.poisonPg h cause n := by
  cases cause <;> exact fun _ _ _ => rfl

theorem poisonEg (h : Word) (cause : Bool) (n : Nat) : IgnoresHost fun s => s.poisonEg h cause n := by
  cases cause <;> exact fun _ _ _ => rfl

theorem resetPgOrPoison : IgnoresHost State.resetPgOrPoison :=
  guard (fun _ _ _ => rfl) (fun _ _ _ => rfl) fun _ _ _ => rfl

theorem resetEgOrPoison : IgnoresHost State.resetEgOrPoison :=
  guard (fun _ _ _ => rfl) (fun _ _ _ => rfl) fun _ _ _ => rfl

theorem missStep (h : Word) : IgnoresHost fun s => s.missStep h :=
  guard (fun _ _ _ => rfl) (fun _ _ _ => rfl) fun _ _ _ => rfl

theorem correlate (h : Word) : IgnoresHost fun s => s.correlate h := by
  intro s a r
  have hmatched : (s.withHost a r).matched = s.matched := rfl
  simp only [State.correlate, hmatched]
  cases bestMatch s.matched with
  | some m => rfl
  | none => exact missStep h s a r

theorem comp {f g : State → State} (hf : IgnoresHost f) (hg : IgnoresHost g) : IgnoresHost fun s => g (f s) := by
  intro s a r
  simp only [hf s a r, hg (f s) a r]

end IgnoresHost

/-- Every meaning is check 4 and then a rule that ignores the host. -/
theorem exec_body (i : Instr) : ∃ body, (∀ s, exec i s = runCommand i s body) ∧ IgnoresHost body := by
  cases i with
  | nop | marker | filtReset | dlAdjust | dlReset | syncReset | fecDec12 | fecDec34 | crcHdr | psQuery | psReset =>
    exact ⟨_, fun _ => rfl, fun _ _ _ => rfl⟩
  | pgainReset | egainReset | filtLoad | dlUpdate | dlExtract =>
    exact ⟨_, fun _ => rfl, .guard (fun _ _ _ => rfl) (fun _ _ _ => rfl) fun _ _ _ => rfl⟩
  | resetAll =>
    refine ⟨_, fun _ => rfl, fun s a r => ?_⟩
    rw [IgnoresHost.resetPgOrPoison s a r, IgnoresHost.resetEgOrPoison _ a r]
    rfl
  | pgainProc =>
    exact ⟨_, fun _ => rfl, .guard (fun _ _ _ => rfl) (fun _ _ _ => rfl) <|
      .guard (fun _ _ _ => rfl) (fun _ _ _ => rfl) <| .guard (fun _ _ _ => rfl) (.poisonPg _ _ _) fun _ _ _ => rfl⟩
  | egainProc =>
    exact ⟨_, fun _ => rfl, .guard (fun _ _ _ => rfl) (fun _ _ _ => rfl) <|
      .guard (fun _ _ _ => rfl) (.poisonEg _ _ _) fun _ _ _ => rfl⟩
  | firApply pay =>
    refine ⟨_, fun _ => rfl, .guard (fun _ _ _ => rfl) (fun _ _ _ => rfl) <| .guard (fun _ _ _ => rfl) ?_ fun _ _ _ => rfl⟩
    cases pay.any (!F32.finite ·) <;> exact fun _ _ _ => rfl
  | hbDecim pay =>
    refine ⟨_, fun _ => rfl, .guard (fun _ _ _ => rfl) (fun _ _ _ => rfl) <| .guard (fun _ _ _ => rfl) ?_ fun _ _ _ => rfl⟩
    cases pay.any (!F32.finite ·) <;> exact fun _ _ _ => rfl
  | filtSelect =>
    refine ⟨_, fun _ => rfl, .guard (fun _ _ _ => rfl) (fun _ _ _ => rfl) fun s a r => ?_⟩
    have hcfg : (s.withHost a r).cfg = s.cfg := rfl
    simp only [hcfg]
    split <;> rfl
  | dlInsert sym c e pay =>
    exact ⟨_, fun _ => rfl, .comp (f := State.insertSymbol (Instr.dlInsert sym c e pay).header sym e)
      (g := fun s => if c then s.correlate (Instr.dlInsert sym c e pay).header else s)
      (.guard (fun _ _ _ => rfl) (fun _ _ _ => rfl) fun _ _ _ => rfl)
      (.guard (fun _ _ _ => rfl) (.correlate _) fun _ _ _ => rfl)⟩
  | syncLoad =>
    exact ⟨_, fun _ => rfl, .guard (fun _ _ _ => rfl) (fun _ _ _ => rfl) <|
      .guard (fun _ _ _ => rfl) (fun _ _ _ => rfl) <| .guard (fun _ _ _ => rfl) (fun _ _ _ => rfl) fun _ _ _ => rfl⟩
  | psStart =>
    refine ⟨_, fun _ => rfl, fun s a r => ?_⟩
    have hps : (s.withHost a r).ps = s.ps := rfl
    simp only [hps, State.setPs_ps]
    split <;> split <;> rfl
  | psAdd =>
    exact ⟨_, fun _ => rfl, .guard (fun _ _ _ => rfl) (fun _ _ _ => rfl) <|
      .guard (fun _ _ _ => rfl) (fun _ _ _ => rfl) <| .guard (fun _ _ _ => rfl) (fun _ _ _ => rfl) fun _ _ _ => rfl⟩

/-- The words of a complete command have a next state, whatever the host's turns and reads, and these stay out of it. -/
theorem runWords_withHost (s : State) (h p : Word) (pay : List Word) (a : List Turn) (r : List Word) :
    ∃ t, s.runWords h p pay = .next t ∧ (s.withHost a r).runWords h p pay = .next (t.withHost a r) := by
  have hcfg : (s.withHost a r).cfg = s.cfg := rfl
  simp only [State.runWords, hcfg]
  cases decode s.cfg h p pay with
  | error e => exact ⟨_, rfl, rfl⟩
  | ok i =>
    obtain ⟨body, hbody, hignores⟩ := exec_body i
    simp only [hbody]
    cases hok : i.lengthOk s.cfg with
    | false => exact ⟨_, runCommand_of_not_lengthOk hok, runCommand_of_not_lengthOk (s := s.withHost a r) hok⟩
    | true =>
      refine ⟨_, runCommand_of_lengthOk hok, ?_⟩
      rw [← hignores]
      exact runCommand_of_lengthOk (s := s.withHost a r) hok

/-! ## HOLD and the words of the registers -/

theorem hold_of_incomplete {s : State} (hc : s.ca.isComplete = false) : s.hold = false := by
  unfold State.hold
  split
  next h p pay hca => rw [hca] at hc; cases hc
  · rfl

theorem hold_of_run {s t : State} {h p : Word} {pay : List Word} (hca : s.ca = .body h p pay 0)
    (hrun : s.runWords h p pay = .next t) : s.hold = t.overflows := by
  simp only [State.hold, hca, hrun]

theorem hold_withHost (s : State) (a : List Turn) (r : List Word) : (s.withHost a r).hold = s.hold := by
  cases hc : s.ca.isComplete with
  | false => rw [hold_of_incomplete hc]; exact hold_of_incomplete (s := s.withHost a r) hc
  | true =>
    obtain ⟨h, p, pay, hca⟩ := (Assembly.isComplete_iff _).mp hc
    obtain ⟨t, hrun, hrun'⟩ := runWords_withHost s h p pay a r
    rw [hold_of_run hca hrun, hold_of_run (s := s.withHost a r) hca hrun']
    rfl

/-- No register shows the host's turns or reads. -/
theorem csrWord_withHost (s : State) (a : List Turn) (r : List Word) (x : Csr) :
    (s.withHost a r).csrWord x = s.csrWord x := by
  cases x with
  | status =>
    simp only [State.csrWord, State.statusWord, hold_withHost]
    rfl
  | _ => rfl

end Sys2Proof.Machine
end

section
/-! PROOFS. Reads: the word of every register in every state, STATUS bit by bit, and that reads change nothing. -/

namespace Sys2Proof.Machine


/-! ## Words of several fields -/

/-- A word of two fields is the number that their bits make. -/
theorem toNat_append_eq {m n : Nat} (x : BitVec m) (y : BitVec n) : (x ++ y).toNat = x.toNat * 2 ^ n + y.toNat := by
  rw [BitVec.toNat_append, ← Nat.shiftLeft_add_eq_or_of_lt y.isLt, Nat.shiftLeft_eq]

theorem selWord_eq (f : Filters) : f.selWord = BitVec.ofNat 32 (f.fi.toNat + 16 * f.hi.toNat + 256 * f.lk.toNat) := by
  apply BitVec.eq_of_toNat_eq
  have := f.fi.isLt
  have := f.hi.isLt
  have := f.lk.toNat_lt
  simp only [Filters.selWord, toNat_append_eq, BitVec.toNat_ofNat, BitVec.toNat_ofBool]
  omega

theorem syncLast_word_eq (l : SyncLast) :
    l.word = BitVec.ofNat 32 (l.k.toNat + 16 * l.dist.toNat + 2 ^ 31 * l.valid.toNat) := by
  apply BitVec.eq_of_toNat_eq
  have := l.k.isLt
  have := l.dist.isLt
  have := l.valid.toNat_lt
  simp only [SyncLast.word, toNat_append_eq, BitVec.toNat_ofNat, BitVec.toNat_ofBool]
  omega

theorem statWord_eq (q : Sequencer) :
    q.statWord = BitVec.ofNat 32 (q.state.code.toNat + 4 * (q.decl % 128) + 512 * (q.recv % 128)) := by
  apply BitVec.eq_of_toNat_eq
  have := q.state.code.isLt
  simp only [Sequencer.statWord, Sequencer.stat, toNat_append_eq, BitVec.toNat_ofNat]
  omega

/-- SYNC_TVALID as a sum over the slots (10_state.md R31). -/
theorem validWord_eq (q : Correlator) :
    q.validWord = BitVec.ofNat 32
      ((List.range q.tpl.length).map fun k => if (q.tpl.getD k Template.reset).v then 2 ^ k else 0).sum := by
  rw [Correlator.validWord]
  congr 1
  induction q.tpl with
  | nil => rfl
  | cons t ts ih =>
    have hfirst : (if ((t :: ts).getD 0 Template.reset).v then 2 ^ 0 else 0) = t.v.toNat := by
      cases h : t.v <;> simp [h]
    have hrest : ∀ k, (if ((t :: ts).getD (k + 1) Template.reset).v then 2 ^ (k + 1) else 0) =
        2 * (if (ts.getD k Template.reset).v then 2 ^ k else 0) := by
      intro k; simp [pow_succ']
    rw [List.foldr_cons, ih, List.length_cons, List.range_succ_eq_map, List.map_cons, List.map_map, List.sum_cons,
      Function.comp_def]
    simp only [Nat.succ_eq_add_one, hfirst, hrest, List.sum_map_mul_left]
    exact Nat.add_comm _ _

/-- One of the three header words (10_state.md R47). -/
theorem headerWord_eq (m : Header) (k : Nat) : m.extractLsb' k 32 = BitVec.ofNat 32 (m.toNat / 2 ^ k) := by
  apply BitVec.eq_of_toNat_eq
  rw [BitVec.extractLsb'_toNat, BitVec.toNat_ofNat, Nat.shiftRight_eq_div_pow]

theorem registerWords_eq (s : State) : registerWords s = Csr.listed.map fun r => (r.offset, s.csrWord r) := by
  have hset {w : Nat} (x : BitVec w) : x.setWidth 32 = BitVec.ofNat 32 x.toNat := (BitVec.ofNat_toNat 32 x).symm
  have hphase : BitVec.ofNat 32 s.filt.phase.toNat = if s.filt.phase then 1 else 0 := by cases s.filt.phase <;> rfl
  have hhdr := headerWord_eq s.ps.hdr 0
  rw [pow_zero, Nat.div_one] at hhdr
  simp only [Csr.listed, List.map_cons, List.map_nil, State.csrWord, hset, hphase, hhdr, selWord_eq,
    syncLast_word_eq, statWord_eq, validWord_eq, headerWord_eq, Sequencer.bitsProcessed]
  unfold registerWords
  cases s.ps.state <;> rfl

/-! ## Reads -/

/-- A read of any register but EVQ_POP returns its word and changes nothing else (20_memory.md R75). -/
theorem step_read {s : State} {r : Csr} {rest : List Turn} (hr : r ≠ .evqPop)
    (ha : s.agenda = .host (.read 4 r.offset) :: rest) :
    step s = .next { s with agenda := rest, hostReads := s.hostReads ++ [s.csrWord r] } := by
  have hread : (s.after rest).hostRead 4 r.offset = (s.after rest).returnWord ((s.after rest).csrWord r) := by
    simp only [State.hostRead, accessed_offset, hr, if_false]
  have hword : (s.after rest).csrWord r = s.csrWord r := csrWord_withHost s rest s.hostReads r
  rw [hword] at hread
  exact (takeTurn_host ha rfl).trans (congrArg _ hread)

theorem countWord_toNat {off : BitVec 12} {n : Nat} (h : n < 2 ^ 32) : (countWord off n).toNat = n := by
  rw [countWord_of_lt h, BitVec.toNat_ofNat, Nat.mod_eq_of_lt h]

/-- Settles O58: each listed word is a register's, and a read leaves every register's word as it was. -/
theorem readsAreIdempotent : Obligations.ReadsAreIdempotent := by
  refine ⟨fun s rest p hp => ?_, fun s off hoff hstatus hpop => ?_, fun off n => countWord_toNat,
    fun s off rest hoff hpop ha => ?_⟩
  · rw [registerWords_eq] at hp
    obtain ⟨r, hr, rfl⟩ := List.mem_map.mp hp
    obtain ⟨-, hr⟩ := r.mem_listed_iff.mp hr
    rw [← csrWord_withHost s (.host (.read 4 r.offset) :: rest) s.hostReads]
    exact step_read (s := s.reading r.offset rest) hr rfl
  · obtain ⟨r, rfl⟩ := exists_offset hoff
    refine ⟨s.csrWord r, registerWords_eq s ▸ List.mem_map.mpr ⟨r, r.mem_listed_iff.mpr ⟨?_, ?_⟩, rfl⟩⟩
    · rintro rfl; exact hstatus rfl
    · rintro rfl; exact hpop rfl
  · obtain ⟨r, rfl⟩ := exists_offset hoff
    have hr : r ≠ .evqPop := by rintro rfl; exact hpop rfl
    have hfirst := step_read hr ha
    have hsecond := step_read (s := { s with agenda := _, hostReads := s.hostReads ++ [s.csrWord r] }) (rest := rest) hr rfl
    have hword : State.csrWord { s with agenda := _, hostReads := s.hostReads ++ [s.csrWord r] } r = s.csrWord r :=
      csrWord_withHost s (.host (.read 4 r.offset) :: rest) _ r
    rw [hword, List.append_assoc] at hsecond
    exact ⟨s.csrWord r, (run_succ 1 hfirst).trans (run_succ 0 hsecond)⟩

/-! ## STATUS -/

theorem getLsbD_append_ofBool_zero {m : Nat} (x : BitVec m) (b : Bool) : (x ++ BitVec.ofBool b).getLsbD 0 = b := by
  rw [BitVec.getLsbD_append, if_pos Nat.zero_lt_one, BitVec.getLsbD_ofBool]; rfl

theorem getLsbD_append_ofBool_succ {m : Nat} (x : BitVec m) (b : Bool) (i : Nat) :
    (x ++ BitVec.ofBool b).getLsbD (i + 1) = x.getLsbD i := by
  rw [BitVec.getLsbD_append, if_neg (by omega), Nat.add_sub_cancel]

theorem getLsbD_append_code {m : Nat} (x : BitVec m) (q : PsState) (i : Nat) :
    (x ++ q.code).getLsbD (i + 2) = x.getLsbD i := by
  rw [BitVec.getLsbD_append, if_neg (by omega), Nat.add_sub_cancel]

theorem Assembly.isPartial_eq (a : Assembly) : a.isPartial = (a != .empty && !a.isComplete) := by
  cases a <;> simp [Assembly.isPartial, Assembly.isComplete]

/-- PS_STATE in STATUS (10_state.md R33). -/
theorem statusWord_psState (s : State) : s.statusWord.extractLsb' 6 2 = s.ps.state.code := by
  unfold State.statusWord
  repeat rw [BitVec.extractLsb'_append_eq_of_le (by decide)]
  exact BitVec.extractLsb'_append_eq_right

/-- The bits of STATUS above its fields read 0 (10_state.md R33). -/
theorem statusWord_reserved (s : State) : s.statusWord.extractLsb' 14 18 = 0 := by
  unfold State.statusWord
  repeat rw [BitVec.extractLsb'_append_eq_of_le (by decide)]
  rfl

/-- The one-bit fields of STATUS (10_state.md R33). -/
theorem statusWord_bits (s : State) :
    s.statusWord.getLsbD 0 = (!s.evq.isEmpty) ∧ s.statusWord.getLsbD 1 = s.hold ∧
    s.statusWord.getLsbD 2 = s.sync.inSync ∧ s.statusWord.getLsbD 3 = s.filt.lk ∧
    s.statusWord.getLsbD 4 = s.filt.fir.valid ∧ s.statusWord.getLsbD 5 = s.filt.hb.valid ∧
    s.statusWord.getLsbD 8 = s.irqLine ∧ s.statusWord.getLsbD 9 = s.pg.poison ∧ s.statusWord.getLsbD 10 = s.eg.poison ∧
    s.statusWord.getLsbD 11 = s.filt.fir.poison ∧ s.statusWord.getLsbD 12 = s.filt.hb.poison ∧
    s.statusWord.getLsbD 13 = s.ca.isPartial := by
  simp only [State.statusWord, getLsbD_append_ofBool_zero, getLsbD_append_ofBool_succ, getLsbD_append_code, and_self]

/-- Settles O59, field by field. -/
theorem statusAndIrq : Obligations.StatusAndIrq := by
  intro s rest
  have hread := step_read (s := s.reading Csr.status.offset rest) (r := .status) (by decide) rfl
  have hword : (s.reading Csr.status.offset rest).csrWord .status = (s.after rest).csrWord .status :=
    csrWord_withHost (s.after rest) _ _ .status
  rw [hword] at hread
  obtain ⟨hevq, hhold, hsync, hlk, hfir, hhb, hirq, hpg, heg, hfirPoison, hhbPoison, hpartial⟩ :=
    statusWord_bits (s.after rest)
  rw [Assembly.isPartial_eq] at hpartial
  refine ⟨(s.after rest).statusWord, hread, hevq, hhold, hsync, hlk, hfir, hhb, ?_, hirq, hpg, heg, hfirPoison, hhbPoison,
    hpartial, statusWord_reserved _⟩
  rw [statusWord_psState]
  dsimp only
  cases s.ps.state <;> rfl

end Sys2Proof.Machine
end

section
/-! PROOFS. The opcode map and the encoder: the header word of a command is the word with its `{UNIT, OP}` byte, its ARG fields
and no reserved bit set, and the decoder reads back exactly these. -/

namespace Sys2Proof.Machine

open Sys2Proof.Laws

/-! ## Fields of a word -/

/-- The field `x` stands in `h` from bit `k` up. -/
def FieldAt {n : Nat} (h : Word) (k : Nat) (x : BitVec n) : Prop := h.extractLsb' k n = x

/-- No bit of the mask `m`, laid from bit `k` up, is set in `h`. -/
def ClearAt {n : Nat} (h : Word) (k : Nat) (m : BitVec n) : Prop := h.extractLsb' k n &&& m = 0#n

theorem append_eq_append_iff {w n : Nat} {x x' : BitVec w} {y y' : BitVec n} :
    x ++ y = x' ++ y' ↔ x = x' ∧ y = y' := by
  refine ⟨fun heq => ⟨?_, ?_⟩, fun ⟨hx, hy⟩ => hx ▸ hy ▸ rfl⟩
  · simpa only [BitVec.extractLsb'_append_eq_left] using congrArg (BitVec.extractLsb' n w) heq
  · simpa only [BitVec.extractLsb'_append_eq_right] using congrArg (BitVec.extractLsb' 0 n) heq

theorem extractLsb'_split (h : Word) (k w n : Nat) :
    h.extractLsb' k (w + n) = h.extractLsb' (k + n) w ++ h.extractLsb' k n :=
  (BitVec.extractLsb'_append_extractLsb'_eq_extractLsb' rfl).symm

theorem fieldAt_append {w n k : Nat} {h : Word} {x : BitVec w} {y : BitVec n} :
    FieldAt h k (x ++ y) ↔ FieldAt h (k + n) x ∧ FieldAt h k y := by
  rw [FieldAt, extractLsb'_split, append_eq_append_iff]; rfl

theorem clearAt_append {w n k : Nat} {h : Word} {x : BitVec w} {y : BitVec n} :
    ClearAt h k (x ++ y) ↔ ClearAt h (k + n) x ∧ ClearAt h k y := by
  rw [ClearAt, extractLsb'_split, BitVec.and_append, ← BitVec.zero_append_zero, append_eq_append_iff]; rfl

theorem clearAt_zero {n k : Nat} {h : Word} : ClearAt h k 0#n ↔ True := iff_true_intro BitVec.and_zero

theorem clearAt_allOnes {n k : Nat} {h : Word} : ClearAt h k (BitVec.allOnes n) ↔ FieldAt h k 0#n := by
  rw [ClearAt, BitVec.and_allOnes]; rfl

theorem fieldAt_ofBool {k : Nat} {h : Word} {b : Bool} : FieldAt h k (BitVec.ofBool b) ↔ h.getLsbD k = b := by
  rw [FieldAt, BitVec.getLsbD_eq_extractLsb']
  generalize h.extractLsb' k 1 = x
  revert x b; decide

theorem eq_iff_fieldAt {x h : Word} : x = h ↔ FieldAt h 0 x := by
  rw [FieldAt, BitVec.extractLsb'_eq_self, eq_comm]

theorem and_eq_zero_iff_clearAt {h m : Word} : h &&& m = 0 ↔ ClearAt h 0 m := by
  rw [ClearAt, BitVec.extractLsb'_eq_self]; rfl

/-! ## The ARG formats (30_encoding.md R94) -/

/-- The ARG fields of a command are those of the header word `h` (R94). -/
def ArgFields (h : Word) : Instr → Prop
  | .marker tag _ => h.extractLsb' 0 24 = tag
  | .filtLoad b _ => h.getLsbD 0 = b
  | .filtSelect fi hi lk _ => h.extractLsb' 0 3 = fi ∧ h.extractLsb' 4 3 = hi ∧ h.getLsbD 8 = lk
  | .dlInsert sym c e _ => h.extractLsb' 0 2 = sym ∧ h.getLsbD 8 = c ∧ h.getLsbD 9 = e
  | .dlUpdate n _ => h.extractLsb' 0 12 = n
  | .dlAdjust d _ => h.getLsbD 0 = d
  | .dlExtract start len _ => h.extractLsb' 0 12 = start ∧ h.extractLsb' 12 12 = len
  | .syncLoad k ndib tol v _ =>
    h.extractLsb' 0 4 = k ∧ h.extractLsb' 4 7 = ndib ∧ h.extractLsb' 11 7 = tol ∧ h.getLsbD 18 = v
  | .fecDec12 prior _ | .fecDec34 prior _ => h.extractLsb' 0 16 = prior
  | .psStart herr _ => h.extractLsb' 0 8 = herr
  | .psAdd err oct _ => h.extractLsb' 0 8 = err ∧ h.extractLsb' 8 8 = oct
  | _ => True

/-- The reserved-zero bits of a command's header word, field by field as `Instr.header` lays them out (R94). -/
def reservedBits : Instr → Word
  | .marker _ _ | .dlExtract _ _ _ => 0#8 ++ 0#24
  | .filtLoad _ _ | .dlAdjust _ _ => 0#8 ++ BitVec.allOnes 23 ++ 0#1
  | .filtSelect _ _ _ _ =>
    0#8 ++ BitVec.allOnes 15 ++ 0#1 ++ BitVec.allOnes 1 ++ 0#3 ++ BitVec.allOnes 1 ++ 0#3
  | .dlInsert _ _ _ _ => 0#8 ++ BitVec.allOnes 14 ++ 0#2 ++ BitVec.allOnes 6 ++ 0#2
  | .dlUpdate _ _ => 0#8 ++ BitVec.allOnes 12 ++ 0#12
  | .syncLoad _ _ _ _ _ => 0#8 ++ BitVec.allOnes 5 ++ 0#19
  | .fecDec12 _ _ | .fecDec34 _ _ | .psAdd _ _ _ => 0#8 ++ BitVec.allOnes 8 ++ 0#16
  | .psStart _ _ => 0#8 ++ BitVec.allOnes 16 ++ 0#8
  | _ => 0#8 ++ BitVec.allOnes 24

/-- A command's header word is the word with its `{UNIT, OP}`, its ARG fields and no reserved bit set. -/
theorem header_eq_iff {i : Instr} {h : Word} :
    i.header = h ↔ h.extractLsb' 24 8 = OpcodeByte.byte i ∧ ArgFields h i ∧ h &&& reservedBits i = 0 := by
  rw [eq_iff_fieldAt, and_eq_zero_iff_clearAt]
  cases i <;>
    simp only [Instr.header, reservedBits, fieldAt_append, clearAt_append, clearAt_zero, clearAt_allOnes,
      fieldAt_ofBool] <;>
    simp only [FieldAt, OpcodeByte.byte, ArgFields, Nat.reduceAdd] <;>
    tauto

/-- The opcode map reads a command where the header has its `{UNIT, OP}` and its ARG fields. -/
theorem commandOf_eq_some_iff {h : Word} {pay : List Word} {reserved : Word} {i : Instr} :
    commandOf h pay = some (reserved, i) ↔
      h.extractLsb' 24 8 = OpcodeByte.byte i ∧ ArgFields h i ∧ reserved = reservedBits i ∧ i.pay = pay := by
  constructor
  · intro hc
    unfold commandOf at hc
    split at hc <;> cases hc
    all_goals
      refine ⟨BitVec.eq_of_toNat_eq ?_, ?_, rfl, rfl⟩
      · assumption
      · simp only [ArgFields, and_self]
  · rintro ⟨hbyte, hargs, rfl, rfl⟩
    unfold commandOf
    rw [hbyte]
    cases i <;> simp only [ArgFields] at hargs <;> simp only [hargs, Instr.pay] <;> rfl

/-- The opcode map of the statements is the decoder's (R93). -/
theorem opcodeRows_lookup (h : Word) (pay : List Word) :
    opcodeRows.lookup (h.extractLsb' 24 8) = (commandOf h pay).map Prod.fst := by
  unfold commandOf
  have hself : h.extractLsb' 24 8 = BitVec.ofNat 8 (h.extractLsb' 24 8).toNat := by
    rw [BitVec.ofNat_toNat, BitVec.setWidth_eq]
  generalize h.extractLsb' 24 8 = byte at *
  split
  case h_27 =>
    -- every row's byte has a branch of its own, and this is none of them
    rw [Option.map_none, List.lookup_eq_none_iff]
    simp only [opcodeRows, List.forall_mem_cons, bne_iff_ne, ne_eq, BitVec.toNat_eq]
    simp_all
  all_goals
    next hbyte => rw [hself, hbyte]; rfl

/-! ## Decoding -/

/-- A command's own header and payload decode to it, whatever length within the limit stands between them. -/
theorem decode_header {c : Config} {p : Word} (i : Instr) (hp : p.toNat ≤ c.maxPayloadWords) :
    decode c i.header p i.pay = .ok i := by
  obtain ⟨hbyte, hargs, hclear⟩ := header_eq_iff.mp (rfl : i.header = i.header)
  have hrow : commandOf i.header i.pay = some (reservedBits i, i) :=
    commandOf_eq_some_iff.mpr ⟨hbyte, hargs, rfl, rfl⟩
  simp [decode, hrow, hclear, Nat.not_lt.mpr hp]

/-- The length word of a command says its payload's length (R90). -/
theorem lengthWord_toNat {i : Instr} (hlen : i.pay.length < 2 ^ 32) :
    (BitVec.ofNat 32 i.pay.length).toNat = i.pay.length := by
  rw [BitVec.toNat_ofNat, Nat.mod_eq_of_lt hlen]

/-- The `2 + P` words of a command stand apart from the words after them (R99). -/
theorem frame_encode (i : Instr) (rest : List Word) (hlen : i.pay.length < 2 ^ 32) :
    frame (encode i ++ rest) = some ((i.header, BitVec.ofNat 32 i.pay.length, i.pay), rest) := by
  simp only [encode, List.cons_append, frame, lengthWord_toNat hlen, List.take_left, List.drop_left]
  rw [if_pos (by simp)]

theorem length_le_of_wellFormed {c : Config} {i : Instr} (hi : i.wellFormed c = true) :
    i.pay.length ≤ c.maxPayloadWords := by
  simp only [Instr.wellFormed, Bool.and_eq_true, decide_eq_true_iff] at hi
  exact hi.1

theorem maxPayloadWords_lt {c : Config} (hc : c.legal = true) : c.maxPayloadWords < 2 ^ 32 := by
  simp only [Config.legal, Config.capacitiesLegal, Bool.and_eq_true, decide_eq_true_iff] at hc
  omega

/-- Settles O5: the words are framed by their length, and the header reads back. -/
theorem decodeEncodeRoundTrip : Obligations.DecodeEncodeRoundTrip := by
  intro c i rest hc hi
  have hle := length_le_of_wellFormed hi
  have hlt : i.pay.length < 2 ^ 32 := hle.trans_lt (maxPayloadWords_lt hc)
  exact ⟨_, _, _, frame_encode i rest hlt, decode_header i ((lengthWord_toNat hlt).trans_le hle)⟩

/-- Settles O4: each word is the header word of its command; the last two fail checks 1 and 3. -/
theorem specWordsDecode : Obligations.SpecWordsDecode :=
  ⟨decode_header (.marker 0xABCDEF []) (by decide), decode_header (.pgainProc _) (by decide),
    decode_header (.filtLoad false _) (by decide), decode_header (.filtSelect 1 5 true []) (by decide),
    decode_header (.dlInsert 3 false true []) (by decide), decode_header (.dlUpdate 4 _) (by decide),
    decode_header (.dlAdjust true []) (by decide), decode_header (.dlExtract 0 8 []) (by decide),
    decode_header (.syncLoad 0 4 1 true _) (by decide), decode_header (.fecDec12 0 _) (by decide),
    decode_header (.psAdd 1 4 _) (by decide), by decide, by decide⟩

/-- Settles O3: the row of the byte is the decoder's, and a header word without reserved bits is its command's. -/
theorem decodeFollowsTheOpcodeMap : Obligations.DecodeFollowsTheOpcodeMap := by
  intro c h p pay
  rw [opcodeRows_lookup h pay]
  cases hrow : commandOf h pay with
  | none => simp only [Option.map_none, decode, hrow]
  | some row =>
    obtain ⟨reserved, i⟩ := row
    obtain ⟨hbyte, hargs, hreserved, hpay⟩ := commandOf_eq_some_iff.mp hrow
    simp only [Option.map_some, decode, hrow]
    split
    · rfl
    split
    · rfl
    case isFalse hclear =>
      exact ⟨i, rfl, header_eq_iff.mpr ⟨hbyte, hargs, hreserved ▸ not_not.mp hclear⟩, hpay⟩

end Sys2Proof.Machine
end

section
/-! PROOFS. Errors: the bookkeeping of one, the commands that a wrong length makes it for, and that every command appends whole
events of its own with at most one ERROR event, the first of them. -/

namespace Sys2Proof.Machine

/-! ## The bookkeeping -/

/-- The sequencer's three codes are its anomalies (60_exceptions.md R285). -/
theorem isAnomaly_iff (c : ErrCode) : c.isAnomaly = true ↔ c.num = 10 ∨ c.num = 11 ∨ c.num = 12 := by
  cases c <;> decide

theorem countError_eq (n : Counters) (c : ErrCode) :
    n.countError c = { n with
      err := n.err + 1
      psAnomaly := if c.num = 10 ∨ c.num = 11 ∨ c.num = 12 then n.psAnomaly + 1 else n.psAnomaly } := by
  simp only [Counters.countError, isAnomaly_iff]

/-- Settles O14: the bookkeeping field by field, and check 4 of every command that requires a length. -/
theorem errorBookkeeping : Obligations.ErrorBookkeeping := by
  refine ⟨fun s c h => ?_, fun s i hlen => ?_⟩
  · rw [takeError_eq, countError_eq]; rfl
  · have hbad : i.lengthOk s.cfg = false := by
      cases i <;> simp_all [Instr.lengthOk, Instr.pay, ceilDiv]
    obtain ⟨body, hexec⟩ := exec_eq_runCommand i s
    rw [hexec, runCommand_of_not_lengthOk hbad]

/-! ## Events without an error -/

/-- The head word of an event (30_encoding.md R104). -/
def eventHead (ty : EventType) (h : Word) (info : BitVec 16) : Word := ty.code ++ h.extractLsb' 24 8 ++ info

theorem eventWords_eq_stream (ty : EventType) (h : Word) (info : BitVec 16) (payload : List Word) :
    eventWords ty h info payload = eventStream [(eventHead ty h info, payload)] := by
  simp [eventWords, eventStream, eventHead]

theorem eventStream_append (es fs : List (Word × List Word)) :
    eventStream (es ++ fs) = eventStream es ++ eventStream fs := List.flatMap_append

theorem eventHead_src (ty : EventType) (h : Word) (info : BitVec 16) :
    (eventHead ty h info).extractLsb' 16 8 = h.extractLsb' 24 8 := by
  rw [eventHead, BitVec.extractLsb'_append_eq_of_le le_rfl]
  exact BitVec.extractLsb'_append_eq_right

theorem eventHead_type (ty : EventType) (h : Word) (info : BitVec 16) :
    (eventHead ty h info).extractLsb' 24 8 = ty.code := by
  rw [eventHead, BitVec.extractLsb'_append_eq_of_le (by decide)]
  exact BitVec.extractLsb'_append_eq_left

theorem isErrorHead_eventHead {ty : EventType} (h : Word) (info : BitVec 16) (hty : ty ≠ .error) :
    isErrorHead (eventHead ty h info) = false := by
  rw [isErrorHead, eventHead_type]
  cases ty with
  | error => exact absurd rfl hty
  | _ => rfl

/-- From `s` to `t` no error is recorded or counted. -/
structure SameErrors (s t : State) : Prop where
  errs : t.errs = s.errs
  err : t.cnt.err = s.cnt.err
  psAnomaly : t.cnt.psAnomaly = s.cnt.psAnomaly

/-- From `s` to `t` there is no error, and whole events are appended, each naming the unit and operation of header `h` and
none of them an ERROR event. -/
structure Quiet (h : Word) (s t : State) : Prop extends SameErrors s t where
  events : ∃ es : List (Word × List Word), t.evq = s.evq ++ eventStream es ∧
    (∀ e ∈ es, e.1.extractLsb' 16 8 = h.extractLsb' 24 8) ∧ ∀ e ∈ es, isErrorHead e.1 = false

namespace Quiet

variable {h : Word} {s t u : State}

theorem silent (hevq : t.evq = s.evq) (same : SameErrors s t) : Quiet h s t where
  toSameErrors := same
  events := ⟨[], hevq.trans (List.append_nil _).symm, by simp, by simp⟩

theorem event {ty : EventType} {info : BitVec 16} {payload : List Word} (hty : ty ≠ .error)
    (hevq : t.evq = s.evq ++ eventWords ty h info payload) (same : SameErrors s t) : Quiet h s t where
  toSameErrors := same
  events := ⟨[(eventHead ty h info, payload)], hevq.trans (by rw [eventWords_eq_stream]),
    by simp [eventHead_src], by simp [isErrorHead_eventHead h info hty]⟩

theorem refl (s : State) : Quiet h s s := silent rfl ⟨rfl, rfl, rfl⟩

theorem trans (hst : Quiet h s t) (htu : Quiet h t u) : Quiet h s u where
  errs := htu.errs.trans hst.errs
  err := htu.err.trans hst.err
  psAnomaly := htu.psAnomaly.trans hst.psAnomaly
  events := by
    obtain ⟨es, hes, hsrc, hno⟩ := hst.events
    obtain ⟨fs, hfs, hsrc', hno'⟩ := htu.events
    refine ⟨es ++ fs, by rw [hfs, hes, eventStream_append, List.append_assoc], ?_, ?_⟩
    · exact List.forall_mem_append.mpr ⟨hsrc, hsrc'⟩
    · exact List.forall_mem_append.mpr ⟨hno, hno'⟩

end Quiet

/-! ## At most one error -/

/-- From `s` to `t` there is no error, or one command error of the command with header `h` and none after it (60_exceptions.md
R281, R283). -/
inductive Logged (h : Word) (s t : State) : Prop
  | clean (quiet : Quiet h s t)
  | error {c : ErrCode} (command : c ≠ .csrAccess) (quiet : Quiet h (s.takeError c h) t)

/-- A reject is an error and nothing else. -/
theorem Logged.reject (s : State) {c : ErrCode} {h : Word} (hc : c ≠ .csrAccess) : Logged h s (s.takeError c h) :=
  .error hc (.refl _)

/-- A cause is reported before the command runs on. -/
theorem Logged.report {s t : State} {p : Bool} {c : ErrCode} {h : Word} (hc : c ≠ .csrAccess)
    (quiet : Quiet h (if p then s.takeError c h else s) t) : Logged h s t := by
  cases p with
  | true => exact .error hc quiet
  | false => exact .clean quiet

/-- A command that changes neither the event queue nor the error bookkeeping. -/
theorem Logged.silent {h : Word} {s t : State} (hevq : t.evq = s.evq) (same : SameErrors s t) : Logged h s t :=
  .clean (.silent hevq same)

/-- A command that makes one event. -/
theorem Logged.event {h : Word} {s t : State} {ty : EventType} {info : BitVec 16} {payload : List Word}
    (hty : ty ≠ .error) (hevq : t.evq = s.evq ++ eventWords ty h info payload) (same : SameErrors s t) :
    Logged h s t :=
  .clean (.event hty hevq same)

/-- A meaning logs what its family's rule does, or the length it rejects. -/
theorem runCommand_logged {i : Instr} {s t : State} {body : State → State} (h : runCommand i s body = .next t)
    (hbody : Logged i.header s (body s)) : Logged i.header s t := by
  obtain ⟨-, rfl⟩ | ⟨-, rfl⟩ := runCommand_cases h
  · exact hbody
  · exact .reject s (by decide)

section
variable {s t : State} {pay : List Word}

/-! ### Control -/

theorem execNop_logged (h : execNop pay s = .next t) : Logged (Instr.nop pay).header s t :=
  runCommand_logged h (.silent rfl ⟨rfl, rfl, rfl⟩)

theorem execMarker_logged {tag : BitVec 24} (h : execMarker tag pay s = .next t) :
    Logged (Instr.marker tag pay).header s t :=
  runCommand_logged h (.event (by decide) rfl ⟨rfl, rfl, rfl⟩)

theorem resetPgOrPoison_quiet (h : Word) (s : State) : Quiet h s s.resetPgOrPoison := by
  unfold State.resetPgOrPoison
  split <;> exact .silent rfl ⟨rfl, rfl, rfl⟩

theorem resetEgOrPoison_quiet (h : Word) (s : State) : Quiet h s s.resetEgOrPoison := by
  unfold State.resetEgOrPoison
  split <;> exact .silent rfl ⟨rfl, rfl, rfl⟩

theorem resetOthers_quiet (h : Word) (s : State) :
    Quiet h s s.resetFilters.resetDelayLine.resetCorrelator.resetSequencer := .silent rfl ⟨rfl, rfl, rfl⟩

theorem execResetAll_logged (h : execResetAll pay s = .next t) : Logged (Instr.resetAll pay).header s t :=
  runCommand_logged h (.clean (((resetPgOrPoison_quiet _ s).trans (resetEgOrPoison_quiet _ _)).trans
    (resetOthers_quiet _ _)))

/-! ### Gain normalizer -/

theorem execPgainProc_logged (h : execPgainProc pay s = .next t) : Logged (Instr.pgainProc pay).header s t := by
  refine runCommand_logged h ?_
  dsimp only
  split
  · exact .reject s (by decide)
  split
  · exact .event (by decide) rfl ⟨rfl, rfl, rfl⟩
  split
  · exact .report (c := .nonfinite) (by decide) (.event (by decide) rfl ⟨rfl, rfl, rfl⟩)
  · exact .event (by decide) rfl ⟨rfl, rfl, rfl⟩

theorem execPgainReset_logged (h : execPgainReset pay s = .next t) : Logged (Instr.pgainReset pay).header s t := by
  refine runCommand_logged h ?_
  split
  · exact .silent rfl ⟨rfl, rfl, rfl⟩
  · exact .reject s (by decide)

theorem execEgainProc_logged (h : execEgainProc pay s = .next t) : Logged (Instr.egainProc pay).header s t := by
  refine runCommand_logged h ?_
  dsimp only
  split
  · exact .reject s (by decide)
  split
  · exact .report (c := .nonfinite) (by decide) (.event (by decide) rfl ⟨rfl, rfl, rfl⟩)
  · exact .event (by decide) rfl ⟨rfl, rfl, rfl⟩

theorem execEgainReset_logged (h : execEgainReset pay s = .next t) : Logged (Instr.egainReset pay).header s t := by
  refine runCommand_logged h ?_
  split
  · exact .silent rfl ⟨rfl, rfl, rfl⟩
  · exact .reject s (by decide)

/-! ### Filters -/

theorem execFiltLoad_logged {b : Bool} (h : execFiltLoad b pay s = .next t) :
    Logged (Instr.filtLoad b pay).header s t := by
  refine runCommand_logged h ?_
  split
  · exact .silent rfl ⟨rfl, rfl, rfl⟩
  · exact .reject s (by decide)

theorem execFirApply_logged (h : execFirApply pay s = .next t) : Logged (Instr.firApply pay).header s t := by
  refine runCommand_logged h ?_
  dsimp only
  split
  · exact .reject s (by decide)
  split
  · exact .report (c := .nonfinite) (by decide) (.event (by decide) rfl ⟨rfl, rfl, rfl⟩)
  · exact .event (by decide) rfl ⟨rfl, rfl, rfl⟩

theorem execHbDecim_logged (h : execHbDecim pay s = .next t) : Logged (Instr.hbDecim pay).header s t := by
  refine runCommand_logged h ?_
  dsimp only
  split
  · exact .reject s (by decide)
  split
  · exact .report (c := .nonfinite) (by decide) (.event (by decide) rfl ⟨rfl, rfl, rfl⟩)
  · exact .event (by decide) rfl ⟨rfl, rfl, rfl⟩

theorem execFiltReset_logged (h : execFiltReset pay s = .next t) : Logged (Instr.filtReset pay).header s t :=
  runCommand_logged h (.silent rfl ⟨rfl, rfl, rfl⟩)

theorem execFiltSelect_logged {fi hi : BitVec 3} {lk : Bool} (h : execFiltSelect fi hi lk pay s = .next t) :
    Logged (Instr.filtSelect fi hi lk pay).header s t := by
  refine runCommand_logged h ?_
  dsimp only
  split
  · exact .reject s (by decide)
  · exact .report (c := .implFallback) (by decide) (.silent rfl ⟨rfl, rfl, rfl⟩)

/-! ### Delay line and correlator -/

theorem correlate_quiet (s : State) (h : Word) : Quiet h s (s.correlate h) := by
  obtain ⟨m, -, heq⟩ | ⟨-, heq⟩ := correlate_cases s h <;> rw [heq]
  · exact .event (by decide) rfl ⟨rfl, rfl, rfl⟩
  · by_cases hl : s.reachesLoss
    · rw [missStep_of_lost h hl]
      exact .event (ty := .syncLost) (by decide) rfl ⟨rfl, rfl, rfl⟩
    · rw [missStep_of_not_lost h hl]
      exact .silent rfl ⟨rfl, rfl, rfl⟩

theorem execDlInsert_logged {sym : Dibit} {c e : Bool} (h : execDlInsert sym c e pay s = .next t) :
    Logged (Instr.dlInsert sym c e pay).header s t := by
  refine runCommand_logged h ?_
  dsimp only
  generalize hu : (if e = true then _ else _ : State) = u
  have hejected : Quiet (Instr.dlInsert sym c e pay).header s u := by
    rw [← hu]; split
    · exact .event (ty := .dlEjected) (by decide) rfl ⟨rfl, rfl, rfl⟩
    · exact .silent rfl ⟨rfl, rfl, rfl⟩
  split
  · exact .clean (hejected.trans (correlate_quiet u _))
  · exact .clean hejected

theorem execDlUpdate_logged {n : BitVec 12} (h : execDlUpdate n pay s = .next t) :
    Logged (Instr.dlUpdate n pay).header s t := by
  refine runCommand_logged h ?_
  dsimp only
  split
  · exact .reject s (by decide)
  · exact .silent rfl ⟨rfl, rfl, rfl⟩

theorem execDlAdjust_logged {d : Bool} (h : execDlAdjust d pay s = .next t) :
    Logged (Instr.dlAdjust d pay).header s t :=
  runCommand_logged h (.silent rfl ⟨rfl, rfl, rfl⟩)

theorem execDlExtract_logged {start len : BitVec 12} (h : execDlExtract start len pay s = .next t) :
    Logged (Instr.dlExtract start len pay).header s t := by
  refine runCommand_logged h ?_
  dsimp only
  split
  · exact .reject s (by decide)
  · exact .event (by decide) rfl ⟨rfl, rfl, rfl⟩

theorem execDlReset_logged (h : execDlReset pay s = .next t) : Logged (Instr.dlReset pay).header s t :=
  runCommand_logged h (.silent rfl ⟨rfl, rfl, rfl⟩)

theorem execSyncLoad_logged {k : BitVec 4} {ndib tol : BitVec 7} {v : Bool}
    (h : execSyncLoad k ndib tol v pay s = .next t) : Logged (Instr.syncLoad k ndib tol v pay).header s t := by
  refine runCommand_logged h ?_
  dsimp only
  split
  · exact .reject s (by decide)
  split
  · exact .silent rfl ⟨rfl, rfl, rfl⟩
  split
  · exact .reject s (by decide)
  · exact .silent rfl ⟨rfl, rfl, rfl⟩

theorem execSyncReset_logged (h : execSyncReset pay s = .next t) : Logged (Instr.syncReset pay).header s t :=
  runCommand_logged h (.silent rfl ⟨rfl, rfl, rfl⟩)

/-! ### Trellis decoder and header CRC -/

theorem execFecDec12_logged {prior : BitVec 16} (h : execFecDec12 prior pay s = .next t) :
    Logged (Instr.fecDec12 prior pay).header s t :=
  runCommand_logged h (.event (by decide) rfl ⟨rfl, rfl, rfl⟩)

theorem execFecDec34_logged {prior : BitVec 16} (h : execFecDec34 prior pay s = .next t) :
    Logged (Instr.fecDec34 prior pay).header s t :=
  runCommand_logged h (.event (by decide) rfl ⟨rfl, rfl, rfl⟩)

theorem execCrcHdr_logged (h : execCrcHdr pay s = .next t) : Logged (Instr.crcHdr pay).header s t :=
  runCommand_logged h (.event (by decide) rfl ⟨rfl, rfl, rfl⟩)

/-! ### Packet sequencer -/

theorem setPs_quiet (s : State) (h : Word) (q : Sequencer) : Quiet h s (s.setPs q) := .silent rfl ⟨rfl, rfl, rfl⟩

theorem emitPacket_quiet (s : State) (h : Word) (p : Prop) [Decidable p] :
    Quiet h s (if p then s.emitPacket h else s) := by
  split
  · exact .event (by decide) rfl ⟨rfl, rfl, rfl⟩
  · exact .refl s

theorem execPsStart_logged {herr : BitVec 8} (h : execPsStart herr pay s = .next t) :
    Logged (Instr.psStart herr pay).header s t :=
  runCommand_logged h (.report (c := .psAbandoned) (by decide)
    ((setPs_quiet _ _ _).trans (emitPacket_quiet _ _ _)))

theorem execPsAdd_logged {err oct : BitVec 8} (h : execPsAdd err oct pay s = .next t) :
    Logged (Instr.psAdd err oct pay).header s t := by
  refine runCommand_logged h ?_
  dsimp only
  split
  · exact .reject s (by decide)
  split
  · exact .reject s (by decide)
  · exact .clean ((setPs_quiet _ _ _).trans (emitPacket_quiet _ _ _))

theorem execPsQuery_logged (h : execPsQuery pay s = .next t) : Logged (Instr.psQuery pay).header s t :=
  runCommand_logged h (.event (by decide) rfl ⟨rfl, rfl, rfl⟩)

theorem execPsReset_logged (h : execPsReset pay s = .next t) : Logged (Instr.psReset pay).header s t :=
  runCommand_logged h (.silent rfl ⟨rfl, rfl, rfl⟩)

end

/-- Every command makes at most one error. -/
theorem exec_logged {i : Instr} {s t : State} (h : exec i s = .next t) : Logged i.header s t := by
  cases i with
  | nop => exact execNop_logged h
  | marker => exact execMarker_logged h
  | resetAll => exact execResetAll_logged h
  | pgainProc => exact execPgainProc_logged h
  | pgainReset => exact execPgainReset_logged h
  | egainProc => exact execEgainProc_logged h
  | egainReset => exact execEgainReset_logged h
  | filtLoad => exact execFiltLoad_logged h
  | firApply => exact execFirApply_logged h
  | hbDecim => exact execHbDecim_logged h
  | filtReset => exact execFiltReset_logged h
  | filtSelect => exact execFiltSelect_logged h
  | dlInsert => exact execDlInsert_logged h
  | dlUpdate => exact execDlUpdate_logged h
  | dlAdjust => exact execDlAdjust_logged h
  | dlExtract => exact execDlExtract_logged h
  | dlReset => exact execDlReset_logged h
  | syncLoad => exact execSyncLoad_logged h
  | syncReset => exact execSyncReset_logged h
  | fecDec12 => exact execFecDec12_logged h
  | fecDec34 => exact execFecDec34_logged h
  | crcHdr => exact execCrcHdr_logged h
  | psStart => exact execPsStart_logged h
  | psAdd => exact execPsAdd_logged h
  | psQuery => exact execPsQuery_logged h
  | psReset => exact execPsReset_logged h

/-- The command errors are the codes 1 to 12 (60_exceptions.md R282). -/
theorem errCode_num_bounds {c : ErrCode} (hc : c ≠ .csrAccess) : 1 ≤ c.num ∧ c.num ≤ 12 := by
  cases c with
  | csrAccess => exact absurd rfl hc
  | _ => decide

/-- Settles O13: a command logs no error, or one whose event comes before all others. -/
theorem atMostOneError : Obligations.AtMostOneError := by
  intro i s t hexec
  cases exec_logged hexec with
  | clean quiet =>
    obtain ⟨es, hevq, hsrc, hno⟩ := quiet.events
    exact ⟨es, hevq, hsrc, .inl ⟨quiet.errs, quiet.err, quiet.psAnomaly, hno⟩⟩
  | @error c hc quiet =>
    obtain ⟨es, hevq, hsrc, hno⟩ := quiet.events
    obtain ⟨hlo, hhi⟩ := errCode_num_bounds hc
    have herrs := quiet.errs
    have herr := quiet.err
    have hanomaly := quiet.psAnomaly
    rw [takeError_errs] at herrs
    rw [takeError_cnt, countError_eq] at herr hanomaly
    refine ⟨(eventHead .error i.header (BitVec.ofNat 16 c.num), [i.header]) :: es, ?_, ?_,
      .inr ⟨c, es, hlo, hhi, ?_, ?_, ?_, herr, hanomaly, rfl, hno⟩⟩
    · rw [hevq, takeError_evq, eventWords_eq_stream, List.append_assoc, ← eventStream_append]; rfl
    · exact List.forall_mem_cons.mpr ⟨eventHead_src _ _ _, hsrc⟩
    · rw [herrs]; rfl
    · rw [herrs]; rfl
    · rw [herrs]; rfl

end Sys2Proof.Machine
end

section
/-! PROOFS. The control commands: what each makes of the state, whole (40_control.md). -/

namespace Sys2Proof.Machine

/-! ## No operation and marker -/

theorem exec_nop (s : State) : exec (.nop []) s = .next s := runCommand_of_lengthOk rfl

/-- The MARKER event: TYPE 0x0B, the command's own SRC, INFO 0, and the tag as its one payload word (40_control.md R121). -/
theorem eventWords_marker (tag : BitVec 24) (pay : List Word) :
    eventWords .marker (Instr.marker tag pay).header 0 [tag.setWidth 32] = [0x0B010000, 1, 0#8 ++ tag] := by
  have hsrc : (Instr.marker tag pay).header.extractLsb' 24 8 = 0x01 := Laws.OpcodeByte.marker tag pay
  have htag : tag.setWidth 32 = 0#8 ++ tag := BitVec.setWidth_eq_append (by decide)
  rw [eventWords, hsrc, htag]
  rfl

theorem exec_marker (tag : BitVec 24) (s : State) :
    exec (.marker tag []) s = .next { s with evq := s.evq ++ [0x0B010000, 1, 0#8 ++ tag] } := by
  rw [← eventWords_marker tag [], ← emit_eq]
  exact (runCommand_of_lengthOk rfl : execMarker tag [] s = _)

/-- Settles O18: each command is its own equation. -/
theorem nopAndMarkerEffects : Obligations.NopAndMarkerEffects :=
  fun s tag => ⟨exec_nop s, exec_marker tag s⟩

/-! ## Reset of every unit -/

theorem legalEg_eq_true_iff (c : ConfigRegs) :
    c.legalEg = true ↔ F32.finitePos c.egObj = true ∧ F32.finitePos c.egFloor = true := Bool.and_eq_true_iff

theorem legalEg_eq_false_iff (c : ConfigRegs) :
    c.legalEg = false ↔ F32.finitePos c.egObj = false ∨ F32.finitePos c.egFloor = false := Bool.and_eq_false_iff

/-- The reset of the two gain modes changes these two units and the draw count, and nothing else. -/
theorem resetGains_eq (s : State) :
    s.resetPgOrPoison.resetEgOrPoison = { s with
      pg := s.resetPgOrPoison.pg, eg := s.resetPgOrPoison.resetEgOrPoison.eg
      draws := s.resetPgOrPoison.resetEgOrPoison.draws } := by
  have hpg : s.resetPgOrPoison = { s with pg := s.resetPgOrPoison.pg, draws := s.resetPgOrPoison.draws } := by
    cases h : F32.finitePos s.csr.pgInit with
    | true => rw [resetPgOrPoison_of_legal h]; rfl
    | false => rw [resetPgOrPoison_of_illegal h]
  generalize s.resetPgOrPoison = u at *
  cases h : u.csr.legalEg with
  | true => rw [resetEgOrPoison_of_legal h, hpg]; rfl
  | false => rw [resetEgOrPoison_of_illegal h, hpg]

/-- RESET_ALL always performs, as the gain modes' reset or poison and the reset of every other unit (40_control.md R122,
70_reset_and_hazards.md R311). -/
theorem exec_resetAll (s : State) :
    exec (.resetAll []) s = .next { s with
      pg := s.resetPgOrPoison.pg, eg := s.resetPgOrPoison.resetEgOrPoison.eg
      filt := s.resetFilters.filt, dl := s.resetDelayLine.dl, sync := s.resetCorrelator.sync, ps := Sequencer.reset
      draws := s.resetPgOrPoison.resetEgOrPoison.draws } := by
  have hexec : exec (.resetAll []) s = .next
      s.resetPgOrPoison.resetEgOrPoison.resetFilters.resetDelayLine.resetCorrelator.resetSequencer :=
    (runCommand_of_lengthOk rfl : execResetAll [] s = _)
  rw [hexec, resetGains_eq]
  rfl

/-- Settles O19: the gain modes by whether their parameters are legal, every other unit by its own reset. -/
theorem resetAllEffect : Obligations.ResetAllEffect := by
  intro s
  have hrep := resetPgOrPoison_report s
  have hcsr : s.resetPgOrPoison.csr = s.csr := hrep.csr
  have hcfg : s.resetPgOrPoison.cfg = s.cfg := hrep.cfg
  refine ⟨_, exec_resetAll s, fun hpg => ?_, fun hpg => ?_, fun hobj hfloor => ?_, fun hillegal => ?_, rfl⟩
  · rw [resetPgOrPoison_of_legal hpg]; rfl
  · rw [resetPgOrPoison_of_illegal hpg]
  · have heg := (legalEg_eq_true_iff s.csr).mpr ⟨hobj, hfloor⟩
    rw [resetEgOrPoison_of_legal (hcsr ▸ heg), resetEg_eq, hcsr, hcfg]
  · have heg := (legalEg_eq_false_iff s.csr).mpr hillegal
    rw [resetEgOrPoison_of_illegal (hcsr ▸ heg), hcsr, hcfg]
    exact ⟨rfl, rfl, rfl, drawList_length _ _⟩

end Sys2Proof.Machine
end

section
/-! PROOFS. The order of the binary32 words that are no NaN, by their keys; a rounded sum, difference or product against its
operands; maxima and clamps. -/

namespace Sys2Proof.Machine.F32

/-! ## Comparisons and keys -/

theorem natAbs_key (a : Word) : (key a).natAbs = mag a := by unfold key; split <;> omega

theorem finite_iff_key (a : Word) : finite a = true ↔ -(infMag : Int) < key a ∧ key a < infMag := by
  have := natAbs_key a
  rw [finite_iff]
  omega

theorem lt_iff_key (a b : Word) : lt a b = true ↔ isNaN a = false ∧ isNaN b = false ∧ key a < key b := by
  simp [lt, and_assoc]

theorem le_iff_key (a b : Word) : le a b = true ↔ isNaN a = false ∧ isNaN b = false ∧ key a ≤ key b := by
  simp only [le, Bool.or_eq_true, lt_iff_key, eq, Bool.and_eq_true, Bool.not_eq_true', decide_eq_true_iff, and_assoc,
    ← and_or_left, le_iff_lt_or_eq]

/-- The keys are in the order of the exact values. -/
theorem value_le_iff_key (a b : Word) : value a ≤ value b ↔ key a ≤ key b := by
  have hle := (units_strictMono.le_iff_le (a := mag a) (b := mag b)).symm
  have hge := (units_strictMono.le_iff_le (a := mag b) (b := mag a)).symm
  have ha := (value_eq_zero_iff a).symm
  have hb := (value_eq_zero_iff b).symm
  unfold key
  obtain ⟨hsa, hva⟩ | ⟨hsa, hva⟩ := value_cases a <;> obtain ⟨hsb, hvb⟩ | ⟨hsb, hvb⟩ := value_cases b <;>
    simp only [hsa, hsb, if_true, if_false, Bool.false_eq_true] <;> omega

protected theorem le_trans {a b c : Word} (hab : le a b = true) (hbc : le b c = true) : le a c = true := by
  rw [le_iff_key] at *
  exact ⟨hab.1, hbc.2.1, hab.2.2.trans hbc.2.2⟩

protected theorem le_of_lt {a b : Word} (h : lt a b = true) : le a b = true := by simp [le, h]

protected theorem le_refl {a : Word} (h : isNaN a = false) : le a a = true := (le_iff_key a a).mpr ⟨h, h, le_rfl⟩

/-- Of two non-NaN values the one is less, or the other is not above it. -/
protected theorem le_of_not_lt {a b : Word} (ha : isNaN a = false) (hb : isNaN b = false) (h : ¬ lt a b = true) :
    le b a = true := by
  rw [le_iff_key]
  refine ⟨hb, ha, Int.not_lt.mp fun hkey => h ?_⟩
  exact (lt_iff_key a b).mpr ⟨ha, hb, hkey⟩

theorem value_le_of_le {a b : Word} (h : le a b = true) : value a ≤ value b :=
  (value_le_iff_key a b).mpr ((le_iff_key a b).mp h).2.2

theorem le_of_value_le {a b : Word} (ha : finite a = true) (hb : finite b = true) (h : value a ≤ value b) :
    le a b = true :=
  (le_iff_key a b).mpr ⟨not_nan_of_finite ha, not_nan_of_finite hb, (value_le_iff_key a b).mp h⟩

theorem value_pos_of_finitePos {a : Word} (h : finitePos a = true) : 0 < value a := by
  obtain ⟨-, hlt⟩ := Bool.and_eq_true_iff.mp h
  have hkey := ((lt_iff_key 0 a).mp hlt).2.2
  exact Int.not_le.mp fun hle => absurd ((value_le_iff_key a 0).mp hle) (Int.not_le.mpr hkey)

theorem finite_of_finitePos {a : Word} (h : finitePos a = true) : finite a = true := (Bool.and_eq_true_iff.mp h).1

/-- `lo <= v <= hi`. -/
abbrev Within (lo hi v : Word) : Prop := le lo v = true ∧ le v hi = true

theorem Within.finite {lo hi v : Word} (h : Within lo hi v) (hlo : F32.finite lo = true) (hhi : F32.finite hi = true) :
    F32.finite v = true := by
  obtain ⟨-, -, hv⟩ := (le_iff_key lo v).mp h.1
  obtain ⟨-, -, hv'⟩ := (le_iff_key v hi).mp h.2
  rw [finite_iff_key] at *
  exact ⟨hlo.1.trans_le hv, hv'.trans_lt hhi.2⟩

theorem Within.finitePos {lo hi v : Word} (h : Within lo hi v) (hlo : F32.finitePos lo = true)
    (hhi : F32.finite hi = true) : F32.finitePos v = true := by
  obtain ⟨hfin, hpos⟩ := Bool.and_eq_true_iff.mp hlo
  obtain ⟨h0, -, hpos⟩ := (lt_iff_key 0 lo).mp hpos
  obtain ⟨-, hnan, hkey⟩ := (le_iff_key lo v).mp h.1
  exact Bool.and_eq_true_iff.mpr ⟨h.finite hfin hhi, (lt_iff_key 0 v).mpr ⟨h0, hnan, hpos.trans_le hkey⟩⟩

/-- A clamp brings every non-NaN value, infinities too, into the range. -/
theorem clamp_within {v lo hi : Word} (hv : isNaN v = false) (h : le lo hi = true) : Within lo hi (clamp v lo hi) := by
  obtain ⟨hlo, hhi, -⟩ := (le_iff_key lo hi).mp h
  unfold clamp
  split
  case isTrue => exact ⟨F32.le_refl hlo, h⟩
  case isFalse hnlo =>
    split
    case isTrue => exact ⟨h, F32.le_refl hhi⟩
    case isFalse hnhi => exact ⟨F32.le_of_not_lt hv hlo hnlo, F32.le_of_not_lt hhi hv hnhi⟩

/-! ## Results that are no NaN -/

theorem not_nan_make (neg : Bool) {m : Nat} (h : m ≤ infMag) : isNaN (make neg m) = false := by
  simpa [isNaN, mag_make neg h] using h

/-- A quotient of a positive finite value by a finite one is no NaN: by zero it is infinite. -/
theorem not_nan_div {a b : Word} (ha : finitePos a = true) (hb : finite b = true) : isNaN (div a b) = false := by
  have hfin := finite_of_finitePos ha
  have ha0 : mag a ≠ 0 := (value_eq_zero_iff a).not.mp (value_pos_of_finitePos ha).ne'
  simp only [div, not_nan_of_finite hfin, not_nan_of_finite hb, not_inf_of_finite hfin, not_inf_of_finite hb, ha0,
    Bool.or_self, Bool.false_eq_true, if_false]
  split
  · exact not_nan_make _ le_rfl
  · exact not_nan_make _ (roundMag_le_infMag _ _)

/-! ## Rounded results against the operands -/

/-- A finite magnitude is below the least one that rounds to infinity. -/
theorem natAbs_value_lt {a : Word} (h : finite a = true) : (value a).natAbs < overflowUnits := by
  rw [finite_iff] at h
  have hmax : units (infMag - 1) = (2 ^ 24 - 1) * 2 ^ 253 := by
    rw [show infMag - 1 = 253 * 2 ^ 23 + (2 ^ 24 - 1) from rfl, units_code (.inr (by decide)) (by decide)]
  have hle : units (mag a) ≤ units (infMag - 1) := units_strictMono.monotone (by omega)
  rw [natAbs_value]
  unfold overflowUnits
  omega

/-- A sum with a positive finite value is finite or positively infinite, and not below the other operand. -/
theorem le_add_of_finitePos {g d : Word} (hg : finite g = true) (hd : finitePos d = true) (hpos : 0 ≤ value g) :
    le g (add g d) = true := by
  have hd0 := value_pos_of_finitePos hd
  have hr := rounds_add hg (finite_of_finitePos hd)
  by_cases hover : overflowUnits * 1 ≤ (value g + value d).natAbs
  · rw [Rounds, if_pos hover, if_neg (by omega)] at hr
    rw [hr, le_iff_key]
    exact ⟨not_nan_of_finite hg, by decide, ((finite_iff_key g).mp hg).2.le⟩
  · obtain ⟨hfin, hnear⟩ := hr.nearest (Nat.not_le.mp hover)
    have := hnear g hg
    exact le_of_value_le hg hfin (by omega)

/-- The difference of two positive finite values is finite and not above the first. -/
theorem sub_le_of_finitePos {g d : Word} (hg : finitePos g = true) (hd : finitePos d = true) :
    finite (sub g d) = true ∧ le (sub g d) g = true := by
  have hgf := finite_of_finitePos hg
  have hdf := finite_of_finitePos hd
  have hg0 := value_pos_of_finitePos hg
  have hd0 := value_pos_of_finitePos hd
  have hglt := natAbs_value_lt hgf
  have hdlt := natAbs_value_lt hdf
  obtain ⟨hfin, hnear⟩ := (rounds_sub hgf hdf).nearest (by omega)
  have := hnear g hgf
  exact ⟨hfin, le_of_value_le hfin hgf (by omega)⟩

/-- Finite and not below zero; -0.0 is not below zero. -/
abbrev FiniteNonneg (a : Word) : Prop := finite a = true ∧ le 0 a = true

theorem value_nonneg_iff {a : Word} (h : finite a = true) : 0 ≤ value a ↔ le 0 a = true :=
  ⟨fun hv => le_of_value_le (by decide) h (hv.trans_eq' (by decide)),
    fun hle => (value_le_of_le hle).trans_eq' (by decide)⟩

/-- A product of finite values not below zero, one of them at most 1, is finite and not below zero. -/
theorem FiniteNonneg.mul {a d : Word} (ha : FiniteNonneg a) (hd : FiniteNonneg d) (hone : le d 0x3F800000 = true) :
    FiniteNonneg (mul a d) := by
  have ha0 := (value_nonneg_iff ha.1).mpr ha.2
  have hd0 := (value_nonneg_iff hd.1).mpr hd.2
  have hd1 : value d ≤ 2 ^ 149 := (value_le_of_le hone).trans_eq (by decide)
  have hprod0 : 0 ≤ value a * value d := Int.mul_nonneg ha0 hd0
  have hprod : value a * value d ≤ value a * 2 ^ 149 := Int.mul_le_mul_of_nonneg_left hd1 ha0
  have halt := natAbs_value_lt ha.1
  obtain ⟨hfin, hnear⟩ := (rounds_mul ha.1 hd.1).nearest (by omega)
  have hzero := hnear 0 (by decide)
  rw [show value 0 = 0 by decide] at hzero
  exact ⟨hfin, (value_nonneg_iff hfin).mp (by omega)⟩

/-! ## Absolute values and maxima -/

@[simp] theorem mag_abs (a : Word) : mag (abs a) = mag a := by
  have hmask : (0x7FFFFFFF#32).extractLsb' 0 31 = BitVec.allOnes 31 := by decide
  rw [mag, abs, BitVec.extractLsb'_and, hmask, BitVec.and_allOnes, mag]

@[simp] theorem sign_abs (a : Word) : sign (abs a) = false := by
  rw [sign, abs, BitVec.msb_and, show (0x7FFFFFFF#32).msb = false by decide, Bool.and_false]

theorem finiteNonneg_abs {a : Word} (h : finite a = true) : FiniteNonneg (abs a) := by
  have hfin : finite (abs a) = true := by rwa [finite_iff, mag_abs, ← finite_iff]
  refine ⟨hfin, (value_nonneg_iff hfin).mp ?_⟩
  simp [value]

theorem FiniteNonneg.max2 {a b : Word} (ha : FiniteNonneg a) (hb : FiniteNonneg b) : FiniteNonneg (max2 a b) := by
  unfold F32.max2
  split
  · exact hb
  · exact ha

end Sys2Proof.Machine.F32
end

section
/-! PROOFS. The gain normalizer's outcomes command by command (41_gain.md), and the reset command of every unit. -/

namespace Sys2Proof.Machine

/-! ## The reset commands -/

theorem exec_pgainReset (s : State) :
    exec (.pgainReset []) s =
      .next (if F32.finitePos s.csr.pgInit = true then s.resetPg else s.takeError .operandRange 0x11000000) :=
  (runCommand_of_lengthOk rfl : execPgainReset [] s = _)

theorem exec_egainReset (s : State) :
    exec (.egainReset []) s =
      .next (if s.csr.legalEg = true then s.resetEg else s.takeError .operandRange 0x13000000) :=
  (runCommand_of_lengthOk rfl : execEgainReset [] s = _)

theorem exec_filtReset (s : State) : exec (.filtReset []) s = .next s.resetFilters :=
  (runCommand_of_lengthOk rfl : execFiltReset [] s = _)

theorem exec_dlReset (s : State) : exec (.dlReset []) s = .next s.resetDelayLine :=
  (runCommand_of_lengthOk rfl : execDlReset [] s = _)

theorem exec_syncReset (s : State) : exec (.syncReset []) s = .next s.resetCorrelator :=
  (runCommand_of_lengthOk rfl : execSyncReset [] s = _)

theorem exec_psReset (s : State) : exec (.psReset []) s = .next s.resetSequencer :=
  (runCommand_of_lengthOk rfl : execPsReset [] s = _)

/-- Settles O20: each command is its unit's reset, or the reject of the gain modes. -/
theorem unitResets : Obligations.UnitResets := by
  intro s
  refine ⟨?_, ?_, exec_filtReset s, exec_dlReset s, exec_syncReset s, exec_psReset s⟩
  · rw [exec_pgainReset, resetPg_eq]
  · simp only [exec_egainReset, resetEg_eq, legalEg_eq_true_iff]

/-! ## PGAIN.PROC -/

/-- The cause of a report by PGAIN.PROC: a sample that is not finite, or not finite less the mean (41_gain.md R130, R131). -/
def pgCause (pay : List Word) : Bool :=
  pay.any fun x => !F32.finite x || !F32.finite (F32.sub x (bufferMean pay))

theorem pgCause_eq (pay : List Word) :
    pgCause pay = (pay.any (!F32.finite ·) || (removeMean pay).any (!F32.finite ·)) := by
  rw [removeMean, List.any_map, Bool.eq_iff_iff]
  simp [pgCause, exists_or, and_or_left]

theorem pgCause_eq_false_iff (pay : List Word) :
    pgCause pay = false ↔
      (∀ x ∈ pay, F32.finite x = true) ∧ ∀ y ∈ removeMean pay, F32.finite y = true := by
  rw [pgCause_eq]
  simp

section
variable {s : State} {pay : List Word}

theorem exec_pgainProc_of_illegal (h : s.csr.legalPg = false) :
    exec (.pgainProc pay) s = .next (s.takeError .operandRange 0x10000000) := by
  refine (runCommand_of_lengthOk rfl : execPgainProc pay s = _).trans (congrArg _ ?_)
  simp only [h, Bool.not_false, if_true]
  rfl

theorem exec_pgainProc_nil (h : s.csr.legalPg = true) :
    exec (.pgainProc []) s = .next (s.emit .outReal 0x10000000 0 []) := by
  refine (runCommand_of_lengthOk rfl : execPgainProc [] s = _).trans (congrArg _ ?_)
  simp only [h, Bool.not_true, Bool.false_eq_true, if_false, List.isEmpty_nil, if_true]
  rfl

/-- The two paths of a PGAIN.PROC on a nonempty buffer. -/
theorem exec_pgainProc (h : s.csr.legalPg = true) (hpay : pay ≠ []) :
    exec (.pgainProc pay) s = .next (
      if (s.pg.poison || pgCause pay) = true then s.poisonPg 0x10000000 (pgCause pay) pay.length
      else s.normalPg 0x10000000 (removeMean pay)) := by
  refine (runCommand_of_lengthOk rfl : execPgainProc pay s = _).trans (congrArg _ ?_)
  simp only [h, Bool.not_true, Bool.false_eq_true, if_false, List.isEmpty_iff, hpay, ← pgCause_eq]
  rfl

theorem exec_pgainProc_of_poison (h : s.csr.legalPg = true) (hpay : pay ≠ [])
    (hp : s.pg.poison = true ∨ pgCause pay = true) :
    exec (.pgainProc pay) s = .next (s.poisonPg 0x10000000 (pgCause pay) pay.length) := by
  rw [exec_pgainProc h hpay, if_pos (Bool.or_eq_true_iff.mpr hp)]

theorem exec_pgainProc_of_clean (h : s.csr.legalPg = true) (hpay : pay ≠ []) (hp : s.pg.poison = false)
    (hcause : pgCause pay = false) :
    exec (.pgainProc pay) s = .next (s.normalPg 0x10000000 (removeMean pay)) := by
  rw [exec_pgainProc h hpay, hp, hcause]
  rfl

/-! ## EGAIN.PROC -/

/-- The cause of a report by EGAIN.PROC: a word or a magnitude that is not finite (41_gain.md R131, R136). -/
def egCause (pay : List Word) : Bool :=
  pay.any (!F32.finite ·) || (complexSamples pay).any fun z => !F32.finite (magnitude z)

theorem egCause_eq_false {pay : List Word} (hfinite : ∀ x ∈ pay, F32.finite x = true)
    (hmags : ∀ z ∈ complexSamples pay, F32.finite (magnitude z) = true) : egCause pay = false := by
  simp only [egCause, Bool.or_eq_false_iff, List.any_eq_false, Bool.not_eq_true', Bool.not_eq_false]
  exact ⟨hfinite, hmags⟩

theorem lengthOk_egainProc (c : Config) (heven : pay.length % 2 = 0) : (Instr.egainProc pay).lengthOk c = true :=
  decide_eq_true heven

theorem exec_egainProc_of_illegal (heven : pay.length % 2 = 0) (h : s.csr.legalEg = false) :
    exec (.egainProc pay) s = .next (s.takeError .operandRange 0x12000000) := by
  refine (runCommand_of_lengthOk (lengthOk_egainProc _ heven) : execEgainProc pay s = _).trans (congrArg _ ?_)
  simp only [h, Bool.not_false, if_true]
  rfl

/-- The two paths of a legal EGAIN.PROC. -/
theorem exec_egainProc (heven : pay.length % 2 = 0) (h : s.csr.legalEg = true) :
    exec (.egainProc pay) s = .next (
      if (s.eg.poison || egCause pay) = true then s.poisonEg 0x12000000 (egCause pay) (complexSamples pay).length
      else s.normalEg 0x12000000 (complexSamples pay)) := by
  refine (runCommand_of_lengthOk (lengthOk_egainProc _ heven) : execEgainProc pay s = _).trans (congrArg _ ?_)
  simp only [h, Bool.not_true, Bool.false_eq_true, if_false]
  rfl

theorem exec_egainProc_of_poison (heven : pay.length % 2 = 0) (h : s.csr.legalEg = true)
    (hp : s.eg.poison = true ∨ egCause pay = true) :
    exec (.egainProc pay) s = .next (s.poisonEg 0x12000000 (egCause pay) (pay.length / 2)) := by
  rw [exec_egainProc heven h, if_pos (Bool.or_eq_true_iff.mpr hp), complexSamples_length]

theorem exec_egainProc_of_clean (heven : pay.length % 2 = 0) (h : s.csr.legalEg = true) (hp : s.eg.poison = false)
    (hcause : egCause pay = false) :
    exec (.egainProc pay) s = .next (s.normalEg 0x12000000 (complexSamples pay)) := by
  rw [exec_egainProc heven h, hp, hcause]
  rfl

end

/-! ## The events and the poison paths -/

/-- The event queue after PGAIN.PROC's OUT_REAL (30_encoding.md R104, R105). -/
theorem append_outReal (q : List Word) {outs : List Word} {n : Nat} (h : outs.length = n) :
    q ++ eventWords .outReal 0x10000000 0 outs = q ++ [0x01100000, BitVec.ofNat 32 n] ++ outs := by
  rw [← h, List.append_assoc]
  rfl

/-- The event queue after EGAIN.PROC's OUT_CPLX (30_encoding.md R104, R105). -/
theorem append_outCplx (q : List Word) {outs : List Word} {n : Nat} (h : outs.length = n) :
    q ++ eventWords .outCplx 0x12000000 0 outs = q ++ [0x02120000, BitVec.ofNat 32 n] ++ outs := by
  rw [← h, List.append_assoc]
  rfl

/-- The poison path of the peak mode changes the mode's state, the draws and, after the report of a cause, one event. -/
theorem poisonPg_frame (s : State) (cause : Bool) (n : Nat) :
    let base := if cause then s.takeError .nonfinite 0x10000000 else s
    s.poisonPg 0x10000000 cause n = { base with
      pg := (s.poisonPg 0x10000000 cause n).pg
      evq := base.evq ++ [0x01100000, BitVec.ofNat 32 n] ++ drawList s.draws n
      draws := (s.poisonPg 0x10000000 cause n).draws } := by
  intro base
  rw [poisonPg_eq, ← append_outReal _ (drawList_length _ _)]

/-- The poison path of the envelope mode changes the mode's state, the draws and, after the report of a cause, one event. -/
theorem poisonEg_frame (s : State) (cause : Bool) (n : Nat) :
    let base := if cause then s.takeError .nonfinite 0x12000000 else s
    s.poisonEg 0x12000000 cause n = { base with
      eg := (s.poisonEg 0x12000000 cause n).eg
      evq := base.evq ++ [0x02120000, BitVec.ofNat 32 (2 * n)] ++ drawList s.draws (2 * n)
      draws := (s.poisonEg 0x12000000 cause n).draws } := by
  intro base
  rw [poisonEg_eq, ← append_outCplx _ (drawList_length _ _)]

/-- The poison path draws the live part of the window and keeps the slots past it (41_gain.md R131). -/
theorem poisonEg_window (s : State) (h : Word) (cause : Bool) (n : Nat) :
    (s.poisonEg h cause n).eg.win.drop s.eg.w = s.eg.win.drop s.eg.w ∧
      (s.poisonEg h cause n).eg.win.length = s.eg.win.length := by
  have hwin : (s.poisonEg h cause n).eg.win =
      drawList (s.draws + 2 * n) (min s.eg.w s.eg.win.length) ++ s.eg.win.drop s.eg.w := by rw [poisonEg_eq]
  rw [hwin]
  refine ⟨?_, by simp; omega⟩
  rw [List.drop_append, drawList_length, List.drop_eq_nil_of_le (by simp), List.nil_append, List.drop_drop]
  obtain hw | hw := le_or_gt s.eg.w s.eg.win.length
  · rw [Nat.min_eq_left hw, Nat.sub_self, Nat.add_zero]
  · rw [List.drop_eq_nil_of_le (by omega), List.drop_eq_nil_of_le hw.le]

/-- Settles O22, outcome by outcome. -/
theorem gainOtherPaths : Obligations.GainOtherPaths := by
  intro s pay
  refine ⟨exec_pgainProc_of_illegal, fun h => exec_pgainProc_nil h, fun h hpay hp => ?_, fun heven h => ?_,
    fun heven hobj hfloor hp => ?_⟩
  · exact ⟨_, _, exec_pgainProc_of_poison h hpay hp, drawList_length _ _, by rw [poisonPg_eq],
      poisonPg_frame s (pgCause pay) pay.length⟩
  · exact exec_egainProc_of_illegal heven ((legalEg_eq_false_iff s.csr).mpr h)
  · have hlegal := (legalEg_eq_true_iff s.csr).mpr ⟨hobj, hfloor⟩
    have hlen : 2 * (pay.length / 2) = pay.length := by omega
    have hframe := poisonEg_frame s (egCause pay) (pay.length / 2)
    obtain ⟨hdrop, hwin⟩ := poisonEg_window s 0x12000000 (egCause pay) (pay.length / 2)
    rw [hlen] at hframe
    exact ⟨_, _, exec_egainProc_of_poison heven hlegal hp, drawList_length _ _, by rw [poisonEg_eq],
      by rw [poisonEg_eq], by rw [poisonEg_eq], hdrop, hwin, hframe⟩

end Sys2Proof.Machine
end

section
/-! PROOFS. The peak mode: one step of the gain, the peak, the objective, the loop over a buffer, and the law that every
step of the machine keeps. -/

namespace Sys2Proof.Machine

open F32 (Within FiniteNonneg)

/-- `legal_pg()`, condition by condition (41_gain.md R134). -/
theorem legalPg_iff (c : ConfigRegs) :
    c.legalPg = true ↔
      F32.finitePos c.pgTarget = true ∧ F32.finitePos c.pgMin = true ∧ F32.finite c.pgMax = true ∧
      F32.le c.pgMin c.pgMax = true ∧ F32.finitePos c.pgCeil = true ∧ F32.finitePos c.pgStep = true ∧
      FiniteNonneg c.pgDecay ∧ F32.le c.pgDecay 0x3F800000 = true := by
  simp only [ConfigRegs.legalPg, Bool.and_eq_true, and_assoc]

/-! ## One step of the gain -/

section
variable {c : ConfigRegs} {obj g : Word}

theorem stepGain_of_lt (h : F32.lt g obj = true) : stepGain c obj g = F32.min2 (F32.add g c.pgStep) obj := if_pos h

theorem stepGain_of_gt (h : F32.lt obj g = true) : stepGain c obj g = F32.max2 (F32.sub g c.pgStep) obj := by
  have hlt : ¬ F32.lt g obj = true := by rw [F32.lt_iff_key] at *; omega
  rw [stepGain, if_neg hlt, if_pos h]

theorem stepGain_of_eq (hlt : F32.lt g obj = false) (hgt : F32.lt obj g = false) : stepGain c obj g = g := by
  simp only [stepGain, hlt, hgt, Bool.false_eq_true, if_false]

/-- Rising, the gain stays below the objective and the rounded sum. -/
theorem stepGain_rising (hstep : F32.finitePos c.pgStep = true) (hg : F32.finitePos g = true)
    (h : F32.lt g obj = true) :
    Within g obj (stepGain c obj g) ∧ F32.le (stepGain c obj g) (F32.add g c.pgStep) = true := by
  have hsum := F32.le_add_of_finitePos (F32.finite_of_finitePos hg) hstep (F32.value_pos_of_finitePos hg).le
  obtain ⟨-, hobj, -⟩ := (F32.lt_iff_key g obj).mp h
  obtain ⟨-, hnan, -⟩ := (F32.le_iff_key _ _).mp hsum
  rw [stepGain_of_lt h, F32.min2]
  split
  case isTrue hover => exact ⟨⟨F32.le_of_lt h, F32.le_refl hobj⟩, F32.le_of_lt hover⟩
  case isFalse hover => exact ⟨⟨hsum, F32.le_of_not_lt hobj hnan hover⟩, F32.le_refl hnan⟩

/-- Falling, the gain stays above the objective and the rounded difference. -/
theorem stepGain_falling (hstep : F32.finitePos c.pgStep = true) (hg : F32.finitePos g = true)
    (h : F32.lt obj g = true) :
    Within obj g (stepGain c obj g) ∧ F32.le (F32.sub g c.pgStep) (stepGain c obj g) = true := by
  obtain ⟨-, hdiff⟩ := F32.sub_le_of_finitePos hg hstep
  obtain ⟨hobj, -, -⟩ := (F32.lt_iff_key obj g).mp h
  obtain ⟨hnan, -, -⟩ := (F32.le_iff_key _ _).mp hdiff
  rw [stepGain_of_gt h, F32.max2]
  split
  case isTrue hunder => exact ⟨⟨F32.le_refl hobj, F32.le_of_lt h⟩, F32.le_of_lt hunder⟩
  case isFalse hunder => exact ⟨⟨F32.le_of_not_lt hnan hobj hunder, hdiff⟩, F32.le_refl hnan⟩

/-- A range that holds the gain and the objective holds the next gain. -/
theorem stepGain_within {lo hi : Word} (hstep : F32.finitePos c.pgStep = true) (hlo : F32.finitePos lo = true)
    (hhi : F32.finite hi = true) (hobj : Within lo hi obj) (hg : Within lo hi g) : Within lo hi (stepGain c obj g) := by
  have hpos := hg.finitePos hlo hhi
  cases hlt : F32.lt g obj with
  | true =>
    obtain ⟨⟨hge, hle⟩, -⟩ := stepGain_rising hstep hpos hlt
    exact ⟨F32.le_trans hg.1 hge, F32.le_trans hle hobj.2⟩
  | false =>
    cases hgt : F32.lt obj g with
    | true =>
      obtain ⟨⟨hge, hle⟩, -⟩ := stepGain_falling hstep hpos hgt
      exact ⟨F32.le_trans hobj.1 hge, F32.le_trans hle hg.2⟩
    | false => rwa [stepGain_of_eq hlt hgt]

end

/-- Settles O25: rising, falling and at the objective. -/
theorem gainStepBounded : Obligations.GainStepBounded := by
  intro c obj g hlegal hobj hg
  obtain ⟨-, -, -, -, -, hstep, -, -⟩ := (legalPg_iff c).mp hlegal
  have hobjFin := F32.finite_of_finitePos hobj
  have hgFin := F32.finite_of_finitePos hg
  have hrise := stepGain_rising (c := c) (obj := obj) hstep hg
  have hfall := stepGain_falling (c := c) (obj := obj) hstep hg
  refine ⟨?_, fun hlt => ?_, fun hgt => ?_, stepGain_of_eq⟩
  · cases hlt : F32.lt g obj with
    | true => exact (hrise hlt).1.finite hgFin hobjFin
    | false =>
      cases hgt : F32.lt obj g with
      | true => exact (hfall hgt).1.finite hobjFin hgFin
      | false => rwa [stepGain_of_eq hlt hgt]
  · obtain ⟨⟨hge, hle⟩, hsum⟩ := hrise hlt
    exact ⟨F32.value_le_of_le hge, F32.value_le_of_le hle, fun _ => F32.value_le_of_le hsum⟩
  · obtain ⟨⟨hge, hle⟩, hdiff⟩ := hfall hgt
    exact ⟨F32.value_le_of_le hle, F32.value_le_of_le hge, F32.value_le_of_le hdiff⟩

/-! ## The normal path keeps the ranges -/

theorem gainLoop_within {c : ConfigRegs} {obj g lo hi : Word} (hstep : F32.finitePos c.pgStep = true)
    (hlo : F32.finitePos lo = true) (hhi : F32.finite hi = true) (hobj : Within lo hi obj) (hg : Within lo hi g)
    (ys : List Word) : Within lo hi (gainLoop c obj g ys).1 := by
  induction ys generalizing g with
  | nil => exact hg
  | cons y ys ih => exact ih (stepGain_within hstep hlo hhi hobj hg)

theorem foldl_max2_abs_finiteNonneg {p : Word} {ys : List Word} (hp : FiniteNonneg p)
    (hys : ∀ y ∈ ys, F32.finite y = true) : FiniteNonneg (ys.foldl (fun peak y => F32.max2 peak (F32.abs y)) p) := by
  induction ys generalizing p with
  | nil => exact hp
  | cons y ys ih =>
    rw [List.forall_mem_cons] at hys
    exact ih (hp.max2 (F32.finiteNonneg_abs hys.1)) hys.2

section
variable {s : State} {ys : List Word} (hlegal : s.csr.legalPg = true) (hlaw : s.pg.Law) (hclean : s.pg.poison = false)
  (hys : ∀ y ∈ ys, F32.finite y = true)
include hlegal hlaw hclean hys

theorem trackPeak_finiteNonneg : FiniteNonneg (trackPeak s.csr s.pg ys) := by
  obtain ⟨-, -, -, -, -, -, hdecay, hone⟩ := (legalPg_iff _).mp hlegal
  obtain ⟨-, hpeak, hpeak0, -⟩ := hlaw hclean
  exact foldl_max2_abs_finiteNonneg (FiniteNonneg.mul ⟨hpeak, hpeak0⟩ hdecay hone) hys

theorem objectiveGain_within :
    Within s.csr.pgMin s.csr.pgMax (objectiveGain s.csr (trackPeak s.csr s.pg ys)) := by
  obtain ⟨htarget, -, -, horder, -⟩ := (legalPg_iff _).mp hlegal
  obtain ⟨hpeak, -⟩ := trackPeak_finiteNonneg hlegal hlaw hclean hys
  exact F32.clamp_within (F32.not_nan_div htarget hpeak) horder

/-- Off the poison path the gain and the objective end within [PG_MIN, PG_MAX] (41_gain.md R132). -/
theorem normalPg_within (h : Word) :
    Within s.csr.pgMin s.csr.pgMax (s.normalPg h ys).pg.gain ∧
      Within s.csr.pgMin s.csr.pgMax (s.normalPg h ys).pg.obj := by
  obtain ⟨-, hmin, hmax, horder, -, hstep, -⟩ := (legalPg_iff _).mp hlegal
  obtain ⟨hgain, -⟩ := hlaw hclean
  have hobj := objectiveGain_within hlegal hlaw hclean hys
  have hstart := F32.clamp_within (F32.not_nan_of_finite hgain) horder
  rw [normalPg_eq]
  exact ⟨gainLoop_within hstep hmin hmax hobj hstart ys, hobj⟩

theorem normalPg_law (h : Word) : (s.normalPg h ys).pg.Law := by
  obtain ⟨-, hmin, hmax, -⟩ := (legalPg_iff _).mp hlegal
  have hminFin := F32.finite_of_finitePos hmin
  have hpeak := trackPeak_finiteNonneg hlegal hlaw hclean hys
  obtain ⟨hgain, hobj⟩ := normalPg_within hlegal hlaw hclean hys h
  exact fun _ => ⟨hgain.finite hminFin hmax, hpeak.1, hpeak.2, hobj.finite hminFin hmax⟩

end

/-- Settles O24: an unpoisoned result comes from the normal path. -/
theorem gainStaysInRange : Obligations.GainStaysInRange := by
  intro s t pay hlegal hlaw hpay hexec hclean
  rw [exec_pgainProc hlegal hpay] at hexec
  cases hexec
  split at hclean
  case isTrue => rw [poisonPg_eq] at hclean; cases hclean
  case isFalse hpath =>
    rw [if_neg hpath]
    simp only [Bool.or_eq_true, not_or, Bool.not_eq_true] at hpath
    obtain ⟨hgain, hobj⟩ := normalPg_within hlegal hlaw hpath.1 ((pgCause_eq_false_iff pay).mp hpath.2).2 0x10000000
    exact ⟨hgain.1, hgain.2, hobj⟩

/-! ## The law of the peak mode -/

theorem PeakGain.law_of_poison {p : PeakGain} (h : p.poison = true) : p.Law := fun hp =>
  absurd (hp.symm.trans h) (by decide)

/-- The state after a reset to a finite gain. -/
theorem PeakGain.law_of_reset {g : Word} (h : F32.finite g = true) (b : Bool) :
    PeakGain.Law { gain := g, peak := 0, obj := g, poison := b } := by
  obtain ⟨hfin, hpeak⟩ : FiniteNonneg 0 := by decide
  exact fun _ => ⟨h, hfin, hpeak, h⟩

theorem PgStep.law {s : State} {i : Instr} {v : PeakGain} (h : PgStep s i v) (hlaw : s.pg.Law) : v.Law := by
  cases h with
  | idle => exact hlaw
  | normal hlegal _ hclean _ hcentred => exact normalPg_law hlegal hlaw hclean hcentred _
  | poisoned cause => exact PeakGain.law_of_poison (by rw [poisonPg_eq])
  | reset hinit => exact PeakGain.law_of_reset (F32.finite_of_finitePos hinit) false
  | resetAll =>
    cases hinit : F32.finitePos s.csr.pgInit with
    | true =>
      rw [resetPgOrPoison_of_legal hinit]
      exact PeakGain.law_of_reset (F32.finite_of_finitePos hinit) false
    | false => exact PeakGain.law_of_poison (by rw [resetPgOrPoison_of_illegal hinit])

theorem resetOf_pgLaw {c : Config} (h : c.legal = true) : (State.resetOf c).pg.Law := by
  simp only [Config.legal, Config.resetsLegal, Bool.and_eq_true] at h
  obtain ⟨-, ⟨⟨⟨-, hinit⟩, -⟩, -⟩, -⟩ := h
  exact PeakGain.law_of_reset (F32.finite_of_finitePos hinit) false

theorem receive_pg (s : State) : s.receive.pg = s.pg := by
  unfold State.receive
  split <;> rfl

/-- Settles O23, by what a step can do. -/
theorem peakGainLawKept : Obligations.PeakGainLawKept := by
  intro s t hinv hlaw hstep
  cases step_cases hstep with
  | receive rest => rw [receive_pg]; exact hlaw
  | hold => exact hlaw
  | perform rest hca hrun hroom =>
    obtain ⟨i, heff⟩ := runWords_effect hrun
    exact heff.pg.law hlaw
  | host rest a => rw [(hostStep_frame (s.after rest) a).pg]; exact hlaw
  | powerOn => exact resetOf_pgLaw hinv.1

/-! ## The buffer, sample by sample -/

/-- The gain before the first sample of a buffer and after each. -/
def gainTrace (c : ConfigRegs) (obj : Word) : Word → List Word → List Word
  | g, [] => [g]
  | g, _ :: ys => g :: gainTrace c obj (stepGain c obj g) ys

section
variable (c : ConfigRegs) (obj g : Word) (ys : List Word)

theorem gainTrace_length : (gainTrace c obj g ys).length = ys.length + 1 := by
  induction ys generalizing g with
  | nil => rfl
  | cons y ys ih => simp [gainTrace, ih]

theorem gainTrace_zero : (gainTrace c obj g ys).getD 0 0 = g := by cases ys <;> rfl

theorem gainTrace_last : (gainTrace c obj g ys).getD ys.length 0 = (gainLoop c obj g ys).1 := by
  induction ys generalizing g with
  | nil => rfl
  | cons y ys ih => exact ih _

/-- The gain after a sample is one step from the gain before it, and scales the sample (41_gain.md R130). -/
theorem gainTrace_succ {i : Nat} (h : i < ys.length) :
    (gainTrace c obj g ys).getD (i + 1) 0 = stepGain c obj ((gainTrace c obj g ys).getD i 0) ∧
      (gainLoop c obj g ys).2.getD i 0 = scaleClamp c ((gainTrace c obj g ys).getD (i + 1) 0) (ys.getD i 0) := by
  induction ys generalizing g i with
  | nil => cases h
  | cons y ys ih =>
    cases i with
    | zero =>
      have hnext := gainTrace_zero c obj (stepGain c obj g) ys
      exact ⟨hnext, congrArg (scaleClamp c · y) hnext.symm⟩
    | succ i => exact ih (stepGain c obj g) (Nat.lt_of_succ_lt_succ h)

end

/-- Settles O21: the gains are the trace of the loop. -/
theorem pgainProcResult : Obligations.PgainProcResult := by
  intro s pay c mean ys peak obj hlegal hpay hclean hfinite hcentred
  have hlen : ys.length = pay.length := List.length_map _
  have houts := (gainLoop_length c obj (F32.clamp s.pg.gain c.pgMin c.pgMax) ys).trans hlen
  have hexec := exec_pgainProc_of_clean hlegal hpay hclean ((pgCause_eq_false_iff pay).mpr ⟨hfinite, hcentred⟩)
  refine ⟨gainTrace c obj (F32.clamp s.pg.gain c.pgMin c.pgMax) ys, _,
    (gainTrace_length _ _ _ _).trans (congrArg (· + 1) hlen), houts, gainTrace_zero _ _ _ _,
    fun i hi => gainTrace_succ _ _ _ _ (hi.trans_eq hlen.symm), ?_⟩
  rw [hexec, normalPg_eq, ← append_outReal _ houts, ← hlen, gainTrace_last, hclean]
  rfl

end Sys2Proof.Machine
end

section
/-! PROOFS. The envelope mode: the loop of EGAIN.PROC is the loop that rescans the window and recomputes the gain at every
sample. -/

namespace Sys2Proof.Machine

/-! ## The loop against the reference -/

/-- In a state whose gain is that of its maximum, so is the gain after a sample (41_gain.md R139). -/
theorem Envelope.enter_gain {r : ConfigRegs} {e : Envelope} (m : Word) (h : e.gain = envelopeGain r e.max) :
    (e.enter r m).gain = envelopeGain r (e.enter r m).max := by
  unfold Envelope.enter
  dsimp only
  split
  · rfl
  split
  · rfl
  · exact h

theorem Envelope.enter_poison (r : ConfigRegs) (e : Envelope) (m : Word) : (e.enter r m).poison = e.poison := by
  rw [Envelope.enter_eq]

/-- Under the law a sample enters as if the window were rescanned and the gain recomputed. -/
theorem Envelope.enter_eq_rescan {c : Config} {e : Envelope} {r : ConfigRegs} {m : Word} (hm : Magnitude m)
    (hok : e.Ok c) (hlaw : e.Law) (hclean : e.poison = false) (hgain : e.gain = envelopeGain r e.max) :
    e.enter r m = { e with
      win := e.win.set e.wptr m, wptr := (e.wptr + 1) % e.w, max := rescan (e.win.set e.wptr m) e.w
      gain := envelopeGain r (rescan (e.win.set e.wptr m) e.w) } := by
  obtain ⟨-, hmax⟩ := Envelope.enter_law r hm hok hlaw ((Envelope.enter_poison r e m).trans hclean)
  have hfields := Envelope.enter_eq r e m
  have hwin : (e.enter r m).win = e.win.set e.wptr m := by rw [hfields]
  have hw : (e.enter r m).w = e.w := by rw [hfields]
  rw [hwin, hw] at hmax
  rw [hfields, Envelope.enter_gain m hgain, hmax]

theorem envelopeLoop_eq_reference {c : Config} {e : Envelope} {r : ConfigRegs} {zs : List (Word × Word)}
    (hzs : ∀ z ∈ zs, Magnitude (magnitude z)) (hok : e.Ok c) (hlaw : e.Law) (hclean : e.poison = false)
    (hgain : e.gain = envelopeGain r e.max) : envelopeLoop r e zs = envelopeReference r e zs := by
  induction zs generalizing e with
  | nil => rfl
  | cons z zs ih =>
    rw [List.forall_mem_cons] at hzs
    have hrest := ih hzs.2 (Envelope.enter_ok r _ hok) (Envelope.enter_law r hzs.1 hok hlaw)
      ((Envelope.enter_poison r e _).trans hclean) (Envelope.enter_gain _ hgain)
    rw [envelopeLoop, envelopeReference, hrest, Envelope.enter_eq_rescan hzs.1 hok hlaw hclean hgain]

/-! ## The output words -/

/-- I and Q of a complex value stand side by side (30_encoding.md R105). -/
theorem complexWords_getD (zs : List (Word × Word)) (j : Nat) :
    (complexWords zs).getD (2 * j) 0 = (zs.getD j (0, 0)).1 ∧
      (complexWords zs).getD (2 * j + 1) 0 = (zs.getD j (0, 0)).2 := by
  induction zs generalizing j with
  | nil => exact ⟨rfl, rfl⟩
  | cons z zs ih =>
    cases j with
    | zero => exact ⟨rfl, rfl⟩
    | succ j => exact ih j

theorem agrees_settle (v r : Word) : Agrees (settle v r) v := by
  cases h : F32.isNaN v with
  | true => simpa [Agrees, h] using settle_nan r h
  | false => simpa [Agrees, h] using settle_of_not_nan r h

/-- Each output word is the computed one, or some NaN for a NaN (log 8). -/
theorem agrees_settleList (d : Nat) {vs : List Word} {j : Nat} (h : j < vs.length) :
    Agrees ((settleList d vs).getD j 0) (vs.getD j 0) := by
  have hsettle : (settleList d vs).getD j 0 = settle (vs.getD j 0) (Config.freeWord (d + j)) := by
    simp [settleList, List.getD, h]
  rw [hsettle]
  exact agrees_settle _ _

/-- Settles O26: the loop is the reference, and its outputs are settled word by word. -/
theorem egainProcResult : Obligations.EgainProcResult := by
  intro s pay hok hlaw hclean hobj hfloor heven hfinite hmags ref
  have hlegal := (legalEg_eq_true_iff s.csr).mpr ⟨hobj, hfloor⟩
  have hexec := exec_egainProc_of_clean heven hlegal hclean (egCause_eq_false hfinite hmags)
  have hzs : ∀ z ∈ complexSamples pay, Magnitude (magnitude z) := by
    intro z hz
    obtain ⟨hi, hq⟩ := mem_of_mem_complexSamples hz
    exact ⟨hmags z hz, sign_magnitude (hfinite _ hi) (hfinite _ hq)⟩
  have hloop := envelopeLoop_eq_reference (r := s.csr)
    (e := { s.eg with gain := envelopeGain s.csr s.eg.max }) hzs hok hlaw hclean rfl
  have href : ref.2.length = pay.length / 2 :=
    (congrArg (·.2.length) hloop).symm.trans ((envelopeLoop_length _ _ _).trans (complexSamples_length pay))
  have hwords : (complexWords ref.2).length = pay.length := by rw [complexWords_length, href]; omega
  have houts := (settleList_length s.draws (complexWords ref.2)).trans hwords
  refine ⟨_, settleList s.draws (complexWords ref.2), hexec, ?_, houts, fun j hj => ?_⟩
  · rw [normalEg_eq, ← append_outCplx _ houts, hloop]
    rfl
  · obtain ⟨hre, him⟩ := complexWords_getD ref.2 j
    rw [← hre, ← him]
    exact ⟨agrees_settleList _ (by omega), agrees_settleList _ (by omega)⟩

end Sys2Proof.Machine
end

section
/-! PROOFS. The filter bank's loops: the history they leave and their outputs as convolutions over the input stream, the
phase of the half-band loop, and the outputs of every implementation id against the scalar ones. -/

namespace Sys2Proof.Machine

/-! ## One filter step -/

/-- The history of a bank reaches back far enough for its taps, and each tap has a coefficient slot. -/
structure Bank.Covers (k : Bank) : Prop where
  coef : k.taps ≤ k.coef.length
  hist : k.taps ≤ k.hist.length + 1

theorem Bank.Ok.covers {c : Config} {k : Bank} (h : k.Ok c) (hvalid : k.valid = true) : k.Covers := by
  obtain ⟨hcoef, hhist, hload, -⟩ := h
  obtain ⟨-, htaps, -⟩ := hload hvalid
  exact ⟨by omega, by omega⟩

section
variable {k : Bank} (x : Word) (xs : List Word)

@[simp] theorem Bank.shift_hist_length : (k.shift x).hist.length = k.hist.length := by simp [Bank.shift]

theorem Bank.Covers.shift (h : k.Covers) : (k.shift x).Covers :=
  ⟨h.coef, by rw [Bank.shift_hist_length]; exact h.hist⟩

/-- After a filter step the input stream has lost its oldest input (42_filter.md R161). -/
theorem Bank.stream_shift : (k.shift x).stream xs = (k.stream (x :: xs)).drop 1 := by
  have hhist : (k.shift x).hist.reverse = (k.hist.reverse ++ [x]).drop 1 := by
    simp [Bank.shift, List.reverse_take]
  rw [Bank.stream, Bank.stream, hhist, ← List.drop_append_of_le_length (by simp), List.append_assoc]
  rfl

/-- The input `j` samples back from the first new one is entry `j` of that input and the history (42_filter.md R161). -/
theorem Bank.stream_back {j : Nat} (hj : j ≤ k.hist.length) :
    (k.stream (x :: xs)).getD (k.hist.length - j) 0 = (x :: k.hist).getD j 0 := by
  cases j with
  | zero => simp [Bank.stream]
  | succ j =>
    have hidx : k.hist.length - 1 - (k.hist.length - (j + 1)) = j := by omega
    have hlt : k.hist.length - (j + 1) < k.hist.length := by omega
    simp [Bank.stream, List.getElem?_append_left, hlt, hidx, Nat.lt_of_succ_le hj]

/-- The products of a filter step: each tap's coefficient with the input that many samples back (42_filter.md R161). -/
theorem Bank.Covers.taps_eq (h : k.Covers) :
    (k.coef.take k.taps).zip (x :: k.hist) =
      (List.range k.taps).map fun j => (k.coef.getD j 0, (k.stream (x :: xs)).getD (k.hist.length - j) 0) := by
  obtain ⟨hcoef, hhist⟩ := h
  refine List.ext_getElem (by simp; omega) fun j hj _ => ?_
  have hlt : j < k.taps := by simp at hj; omega
  have hslot : j < k.coef.length := by omega
  have hinput : j < (x :: k.hist).length := by simp; omega
  rw [List.getElem_zip, List.getElem_map, List.getElem_range, Bank.stream_back x xs (Nat.lt_succ_iff.mp hinput),
    List.getElem_take, List.getD_eq_getElem _ _ hslot, List.getD_eq_getElem _ _ hinput]

theorem Bank.Covers.output_eq (h : k.Covers) : k.output x = k.convolution (x :: xs) 0 := by
  rw [Bank.output, h.taps_eq x xs, List.foldl_map, Bank.convolution, Nat.add_zero]

/-- A convolution over the inputs that are left is one over all of them, an index later. -/
theorem Bank.Covers.convolution_shift (h : k.Covers) (n : Nat) :
    (k.shift x).convolution xs n = k.convolution (x :: xs) (n + 1) := by
  refine List.foldl_ext _ _ _ fun acc j hj => ?_
  have hlt : j < k.taps := List.mem_range.mp hj
  have hidx : 1 + (k.hist.length + n - j) = k.hist.length + (n + 1) - j := by
    have := h.hist
    omega
  simp only [Bank.stream_shift, Bank.shift_hist_length, List.getD_eq_getElem?_getD, List.getElem?_drop, hidx]
  rfl

/-! ## The loops over a buffer -/

/-- The scalar results of the FIR loop are the convolutions, input by input (42_filter.md R161, R163). -/
theorem firLoop_outputs (h : k.Covers) {n : Nat} (hn : n < xs.length) :
    (firLoop k xs).2.getD n 0 = k.convolution xs n := by
  induction xs generalizing k n with
  | nil => cases hn
  | cons x xs ih =>
    cases n with
    | zero => exact h.output_eq x xs
    | succ n => exact (ih (h.shift x) (Nat.lt_of_succ_lt_succ hn)).trans (h.convolution_shift x xs n)

/-- The history after a buffer: the newest inputs, old or new, newest first (42_filter.md R161). -/
theorem firLoop_hist (k : Bank) : (firLoop k xs).1.hist = (xs.reverse ++ k.hist).take k.hist.length := by
  induction xs generalizing k with
  | nil => simp [firLoop]
  | cons x xs ih =>
    have hshift : (k.shift x).hist = (x :: k.hist).take k.hist.length := rfl
    rw [firLoop, ih, Bank.shift_hist_length, hshift, List.reverse_cons, List.append_assoc, List.singleton_append,
      List.take_append, List.take_append, List.take_take, Nat.min_eq_left (Nat.sub_le _ _)]

/-- The FIR loop leaves a sound bank as it was but for the history, which has taken every input (42_filter.md R161). -/
theorem firLoop_eq_of_ok {c : Config} (h : k.Ok c) :
    (firLoop k xs).1 = { k with hist := (xs.reverse ++ k.hist).take (c.maxTaps - 1) } := by
  obtain ⟨-, hlen, -⟩ := h
  rw [firLoop_bank, firLoop_hist, hlen]

/-- The half-band loop keeps every second result of the FIR loop, from the second one on, or from the first where the
phase was 1 (42_filter.md R164). -/
theorem hbLoop_outputs (k : Bank) (phase : Bool) (m : Nat) :
    (hbLoop k phase xs).2.2.getD m 0 = (firLoop k xs).2.getD (2 * m + if phase then 0 else 1) 0 := by
  induction xs generalizing k phase m with
  | nil => rfl
  | cons x xs ih =>
    cases phase with
    | false => exact ih (k.shift x) true m
    | true =>
      cases m with
      | zero => rfl
      | succ m => exact ih (k.shift x) false m

/-- "an odd N leaves HB_PHASE = 1 - HB_PHASE_before" (42_filter.md R164). -/
theorem hbLoop_phase (k : Bank) (phase : Bool) :
    (hbLoop k phase xs).2.1 = if xs.length % 2 = 1 then !phase else phase := by
  induction xs generalizing k phase with
  | nil => rfl
  | cons x xs ih =>
    rw [hbLoop, ih, List.length_cons]
    rcases Nat.mod_two_eq_zero_or_one xs.length with h | h <;> simp [h, Nat.add_mod]

end

theorem hbCount_eq (phase : Bool) (n : Nat) : hbCount phase n = (n + if phase then 1 else 0) / 2 := by
  cases phase <;> rfl

/-- Every kept result belongs to an input of the buffer (42_filter.md R164). -/
theorem lt_of_lt_hbCount (phase : Bool) {m n : Nat} (h : m < hbCount phase n) :
    2 * m + (if phase then 0 else 1) < n := by
  rw [hbCount_eq] at h
  cases phase with
  | false => simp only [Bool.false_eq_true, if_false] at h ⊢; omega
  | true => simp only [if_true] at h ⊢; omega

/-! ## Implementation ids -/

theorem implOutputs_scalar (d : Nat) (vs : List Word) : implOutputs 0 d vs = settleList d vs := rfl

theorem implOutputs_getD (id : BitVec 3) (d : Nat) {vs : List Word} {n : Nat} (h : n < vs.length) :
    (implOutputs id d vs).getD n 0 = implOutput id (vs.getD n 0) (Config.freeWord (d + n)) := by
  simp [implOutputs, List.getD, h]

theorem F32.within_self (v : Word) : F32.within v v = true := by simp [F32.within]

/-- "The 1e-5 bound ... made the definition of every non-scalar implementation" (42_filter.md R167). -/
theorem implOutput_parity (id : BitVec 3) {v r : Word} (h : F32.finite (implOutput 0 v r) = true) :
    F32.finite (implOutput id v r) = true ∧ F32.within (implOutput id v r) (implOutput 0 v r) = true := by
  have hscalar : implOutput 0 v r = settle v r := rfl
  cases hnan : F32.isNaN v with
  | true =>
    rw [hscalar] at h
    exact absurd (settle_nan r hnan) (by simp [F32.not_nan_of_finite h])
  | false =>
    rw [hscalar, settle_of_not_nan r hnan] at h ⊢
    by_cases hid : id = 0
    · rw [hid, hscalar, settle_of_not_nan r hnan]
      exact ⟨h, F32.within_self v⟩
    · rw [implOutput, if_neg hid, if_pos h, ← Bool.and_eq_true_iff]
      exact drawIn_mem (p := fun u => F32.finite u && F32.within u v) r (by simp [h, F32.within_self])

/-- Output by output, every implementation is within 1e-5 of the scalar one (42_filter.md R169). -/
theorem implOutputs_parity (id : BitVec 3) (d : Nat) {vs : List Word} {n : Nat} (hn : n < vs.length)
    (h : F32.finite ((implOutputs 0 d vs).getD n 0) = true) :
    F32.finite ((implOutputs id d vs).getD n 0) = true ∧
      (F32.value ((implOutputs id d vs).getD n 0) - F32.value ((implOutputs 0 d vs).getD n 0)).natAbs * 100000 ≤
        2 ^ 149 := by
  rw [implOutputs_getD _ _ hn] at h ⊢
  rw [implOutputs_getD _ _ hn]
  obtain ⟨hfinite, hwithin⟩ := implOutput_parity id h
  exact ⟨hfinite, of_decide_eq_true hwithin⟩

end Sys2Proof.Machine
end

section
/-! PROOFS. The filter bank's commands (42_filter.md): what each makes of the state, path by path. -/

namespace Sys2Proof.Machine

/-! ## FILT.LOAD -/

theorem symmetric_iff (hs : List Word) :
    symmetric hs = true ↔
      ∀ k, k < hs.length → F32.eq (hs.getD k 0) (hs.getD (hs.length - 1 - k) 0) = true := by
  rw [symmetric, List.all_eq_true, List.forall_mem_iff_forall_getElem]
  have hlen : (hs.zip hs.reverse).length = hs.length := by simp
  refine ⟨fun h k hk => ?_, fun h k hk => ?_⟩
  · have hpair := h k (hlen.symm ▸ hk)
    rw [List.getElem_zip, List.getElem_reverse] at hpair
    rwa [List.getD_eq_getElem _ _ hk, List.getD_eq_getElem]
  · have hlt : k < hs.length := hlen ▸ hk
    have hpair := h k hlt
    rw [List.getElem_zip, List.getElem_reverse]
    rwa [List.getD_eq_getElem _ _ hlt, List.getD_eq_getElem _ _ (by omega)] at hpair

theorem exec_filtLoad (b : Bool) (pay : List Word) (s : State) :
    exec (.filtLoad b pay) s = .next (
      if loadLegal s.cfg b pay = true then s.setFilt (s.filt.setBank b ((s.filt.bank b).load pay))
      else s.takeError .operandRange (if b then 0x20000001 else 0x20000000)) := by
  have hheader : (Instr.filtLoad b pay).header = if b then 0x20000001 else 0x20000000 := by cases b <;> rfl
  rw [← hheader]
  exact (runCommand_of_lengthOk rfl : execFiltLoad b pay s = _)

/-- Settles O28: the statement's test is the command's, bank by bank. -/
theorem filtLoadEffect : Obligations.FiltLoadEffect := by
  intro s b pay ok
  have hok : loadLegal s.cfg b pay = true ↔ ok := by rw [loadLegal_iff, symmetric_iff]
  refine ⟨fun h hb => ?_, fun h hb => ?_, fun h => ?_⟩
  · rw [exec_filtLoad, if_pos (hok.mpr h), hb]; rfl
  · rw [exec_filtLoad, if_pos (hok.mpr h), hb]; rfl
  · rw [exec_filtLoad, if_neg (mt hok.mp h)]

/-! ## FIR.APPLY and HB.DECIM, path by path -/

/-- The cause of a report by FIR.APPLY or HB.DECIM: a sample that is not finite (42_filter.md R162). -/
abbrev filtCause (pay : List Word) : Bool := pay.any fun x => !F32.finite x

theorem filtCause_eq_false {pay : List Word} (h : ∀ x ∈ pay, F32.finite x = true) : filtCause pay = false := by
  simpa [filtCause] using h

/-- A buffer of odd length flips the phase, one of even length keeps it (42_filter.md R164). -/
theorem phase_bne_odd (phase : Bool) (n : Nat) :
    (phase != decide (n % 2 = 1)) = if n % 2 = 1 then !phase else phase := by
  split <;> simp [*]

/-- The event queue after an OUT_REAL of `n` values (30_encoding.md R104, R105). -/
theorem append_outReal_of_length (q : List Word) (h : Word) {outs : List Word} {n : Nat} (hn : outs.length = n) :
    q ++ eventWords .outReal h 0 outs = q ++ [eventHead .outReal h 0, BitVec.ofNat 32 n] ++ outs := by
  rw [← hn, List.append_assoc]
  rfl

section
variable {s : State} {pay : List Word}

theorem exec_firApply_of_unloaded (h : s.filt.fir.valid = false) :
    exec (.firApply pay) s = .next (s.takeError .notConfigured 0x21000000) := by
  refine (runCommand_of_lengthOk rfl : execFirApply pay s = _).trans (congrArg _ ?_)
  simp only [h, Bool.not_false, if_true]
  rfl

theorem exec_firApply_of_poison (h : s.filt.fir.valid = true) (hp : s.filt.fir.poison = true ∨ filtCause pay = true) :
    let base := if filtCause pay then s.takeError .nonfinite 0x21000000 else s
    exec (.firApply pay) s = .next { base with
      filt := { s.filt with lk := true, fir := s.filt.fir.poisoned (s.draws + pay.length) }
      evq := base.evq ++ eventWords .outReal 0x21000000 0 (drawList s.draws pay.length)
      draws := s.draws + (pay.length + s.filt.fir.hist.length) } := by
  refine (runCommand_of_lengthOk rfl : execFirApply pay s = _).trans (congrArg _ ?_)
  simp only [h, Bool.not_true, Bool.false_eq_true, if_false, Bool.or_eq_true_iff.mpr hp, if_true]
  split <;> rfl

theorem exec_firApply_of_clean (h : s.filt.fir.valid = true) (hp : s.filt.fir.poison = false)
    (hcause : filtCause pay = false) :
    exec (.firApply pay) s = .next { s with
      filt := { s.filt with lk := true, fir := (firLoop s.filt.fir pay).1 }
      evq := s.evq ++
        eventWords .outReal 0x21000000 0 (implOutputs s.filt.fi s.draws (firLoop s.filt.fir pay).2)
      draws := s.draws + (firLoop s.filt.fir pay).2.length } := by
  refine (runCommand_of_lengthOk rfl : execFirApply pay s = _).trans (congrArg _ ?_)
  simp only [h, hp, hcause, Bool.not_true, Bool.or_self, Bool.false_eq_true, if_false]
  rfl

theorem exec_hbDecim_of_unloaded (h : s.filt.hb.valid = false) :
    exec (.hbDecim pay) s = .next (s.takeError .notConfigured 0x22000000) := by
  refine (runCommand_of_lengthOk rfl : execHbDecim pay s = _).trans (congrArg _ ?_)
  simp only [h, Bool.not_false, if_true]
  rfl

theorem exec_hbDecim_of_poison (h : s.filt.hb.valid = true) (hp : s.filt.hb.poison = true ∨ filtCause pay = true) :
    let base := if filtCause pay then s.takeError .nonfinite 0x22000000 else s
    let m := hbCount s.filt.phase pay.length
    exec (.hbDecim pay) s = .next { base with
      filt := { s.filt with
        lk := true, hb := s.filt.hb.poisoned (s.draws + m)
        phase := if pay.length % 2 = 1 then !s.filt.phase else s.filt.phase }
      evq := base.evq ++ eventWords .outReal 0x22000000 0 (drawList s.draws m)
      draws := s.draws + (m + s.filt.hb.hist.length) } := by
  refine (runCommand_of_lengthOk rfl : execHbDecim pay s = _).trans (congrArg _ ?_)
  simp only [h, Bool.not_true, Bool.false_eq_true, if_false, Bool.or_eq_true_iff.mpr hp, if_true, phase_bne_odd]
  split <;> rfl

theorem exec_hbDecim_of_clean (h : s.filt.hb.valid = true) (hp : s.filt.hb.poison = false)
    (hcause : filtCause pay = false) :
    let run := hbLoop s.filt.hb s.filt.phase pay
    exec (.hbDecim pay) s = .next { s with
      filt := { s.filt with lk := true, hb := run.1, phase := run.2.1 }
      evq := s.evq ++ eventWords .outReal 0x22000000 0 (implOutputs s.filt.hi s.draws run.2.2)
      draws := s.draws + run.2.2.length } := by
  refine (runCommand_of_lengthOk rfl : execHbDecim pay s = _).trans (congrArg _ ?_)
  simp only [h, hp, hcause, Bool.not_true, Bool.or_self, Bool.false_eq_true, if_false]
  rfl

/-! ## FILT.SELECT -/

theorem exec_filtSelect_of_locked (fi hi : BitVec 3) (lk : Bool) (h : s.filt.lk = true) :
    exec (.filtSelect fi hi lk []) s = .next (s.takeError .implLocked (Instr.filtSelect fi hi lk []).header) := by
  refine (runCommand_of_lengthOk rfl : execFiltSelect fi hi lk [] s = _).trans (congrArg _ ?_)
  simp only [h, if_true]

theorem exec_filtSelect_of_unlocked (fi hi : BitVec 3) (lk : Bool) (h : s.filt.lk = false) :
    exec (.filtSelect fi hi lk []) s = .next {
      (if s.cfg.numFilterImpls ≤ fi.toNat ∨ s.cfg.numFilterImpls ≤ hi.toNat then
        s.takeError .implFallback (Instr.filtSelect fi hi lk []).header else s) with
      filt := { s.filt with fi := implOrScalar s.cfg fi, hi := implOrScalar s.cfg hi, lk := lk } } := by
  refine (runCommand_of_lengthOk rfl : execFiltSelect fi hi lk [] s = _).trans (congrArg _ ?_)
  simp only [h, Bool.false_eq_true, if_false, Bool.or_eq_true, decide_eq_true_eq]
  split <;> rfl

end

/-- Settles O33, by whether the selection is locked and whether the build has both ids. -/
theorem filtSelectEffect : Obligations.FiltSelectEffect := by
  intro s fi hi lk h
  refine ⟨exec_filtSelect_of_locked fi hi lk, fun hlk hfi hhi => ?_, fun hlk hmissing => ?_⟩
  · rw [exec_filtSelect_of_unlocked fi hi lk hlk, if_neg (by omega), implOrScalar, implOrScalar,
      if_pos hfi, if_pos hhi]
  · rw [exec_filtSelect_of_unlocked fi hi lk hlk, if_pos hmissing]
    rfl

/-! ## The outcomes of the two filter commands -/

/-- Settles O32, outcome by outcome. -/
theorem filterOtherPaths : Obligations.FilterOtherPaths := by
  intro s pay cause
  refine ⟨exec_firApply_of_unloaded, exec_hbDecim_of_unloaded, fun h hp => ?_, fun h hp => ?_⟩
  · refine ⟨_, _, _, exec_firApply_of_poison h hp, drawList_length s.draws _,
      drawList_length (s.draws + pay.length) _, ?_⟩
    rw [append_outReal_of_length _ _ (drawList_length _ _)]
    rfl
  · refine ⟨_, _, _, exec_hbDecim_of_poison h hp, (drawList_length s.draws _).trans (hbCount_eq _ _),
      drawList_length (s.draws + hbCount s.filt.phase pay.length) _, ?_⟩
    rw [append_outReal_of_length _ _ rfl]
    rfl

/-- Settles O29: the loop's results are the convolutions, and its history takes every input. -/
theorem firApplyConvolves : Obligations.FirApplyConvolves := by
  intro s pay hok _ hvalid hclean hid hfinite
  have houts := (implOutputs_length s.filt.fi s.draws _).trans (firLoop_length s.filt.fir pay)
  refine ⟨_, _, exec_firApply_of_clean hvalid hclean (filtCause_eq_false hfinite), ?_, houts, fun n hn => ?_⟩
  · rw [append_outReal_of_length _ _ houts, firLoop_eq_of_ok pay hok]
    rfl
  · rw [hid, implOutputs_scalar, ← firLoop_outputs pay (hok.covers hvalid) hn]
    exact agrees_settleList _ (hn.trans_eq (firLoop_length _ _).symm)

/-- Settles O30: the loop keeps every second convolution, and its history takes every input. -/
theorem hbDecimKeepsEverySecond : Obligations.HbDecimKeepsEverySecond := by
  intro s pay hok _ hvalid hclean hid hfinite
  have houts := (implOutputs_length s.filt.hi s.draws _).trans (hbLoop_length s.filt.hb s.filt.phase pay)
  refine ⟨_, _, exec_hbDecim_of_clean hvalid hclean (filtCause_eq_false hfinite), ?_, houts.trans (hbCount_eq _ _),
    fun m hm => ?_⟩
  · rw [append_outReal_of_length _ _ rfl, hbLoop_bank, firLoop_eq_of_ok pay hok, hbLoop_phase]
    rfl
  · have hkept := lt_of_lt_hbCount s.filt.phase (hm.trans_eq houts)
    rw [hid, implOutputs_scalar, ← firLoop_outputs pay (hok.covers hvalid) hkept, ← hbLoop_outputs]
    exact agrees_settleList _ (hm.trans_eq (implOutputs_length _ _ _))

/-- Settles O31: both ids run one loop from one count of draws, and differ only in what they make of its results. -/
theorem filterParity : Obligations.FilterParity := by
  intro s id pay hfinite
  have hcause := filtCause_eq_false hfinite
  refine ⟨fun hvalid hclean => ?_, fun hvalid hclean => ?_⟩
  · have houts (id : BitVec 3) := (implOutputs_length id s.draws _).trans (firLoop_length s.filt.fir pay)
    exact ⟨_, _, _, _, exec_firApply_of_clean hvalid hclean hcause, exec_firApply_of_clean hvalid hclean hcause,
      append_outReal_of_length _ _ (houts 0), append_outReal_of_length _ _ (houts id), houts 0, houts id, rfl,
      fun n hn => implOutputs_parity id s.draws (hn.trans_eq (firLoop_length _ _).symm)⟩
  · have houts (id : BitVec 3) := implOutputs_length id s.draws (hbLoop s.filt.hb s.filt.phase pay).2.2
    exact ⟨_, _, _, _, exec_hbDecim_of_clean hvalid hclean hcause, exec_hbDecim_of_clean hvalid hclean hcause,
      append_outReal_of_length _ _ rfl, append_outReal_of_length _ _ rfl, (houts id).trans (houts 0).symm, rfl,
      fun n hn => implOutputs_parity id s.draws (hn.trans_eq (houts 0))⟩

end Sys2Proof.Machine
end

section
/-! PROOFS. The selection lock: what sets it, and that a locked selection stands through every command and every step
but power-on (42_filter.md R168). -/

namespace Sys2Proof.Machine

/-! ## What sets the lock -/

section
variable {s t : State} {pay : List Word}

theorem exec_firApply_lk (h : exec (.firApply pay) s = .next t) : t.filt.lk = (s.filt.lk || s.filt.fir.valid) := by
  cases hvalid : s.filt.fir.valid with
  | false =>
    rw [exec_firApply_of_unloaded hvalid] at h
    cases h
    exact (Bool.or_false _).symm
  | true =>
    rw [Bool.or_true]
    by_cases hp : s.filt.fir.poison = true ∨ filtCause pay = true
    · rw [exec_firApply_of_poison hvalid hp] at h
      cases h; rfl
    · simp only [not_or, Bool.not_eq_true] at hp
      obtain ⟨hclean, hcause⟩ := hp
      rw [exec_firApply_of_clean hvalid hclean hcause] at h
      cases h; rfl

theorem exec_hbDecim_lk (h : exec (.hbDecim pay) s = .next t) : t.filt.lk = (s.filt.lk || s.filt.hb.valid) := by
  cases hvalid : s.filt.hb.valid with
  | false =>
    rw [exec_hbDecim_of_unloaded hvalid] at h
    cases h
    exact (Bool.or_false _).symm
  | true =>
    rw [Bool.or_true]
    by_cases hp : s.filt.hb.poison = true ∨ filtCause pay = true
    · rw [exec_hbDecim_of_poison hvalid hp] at h
      cases h; rfl
    · simp only [not_or, Bool.not_eq_true] at hp
      obtain ⟨hclean, hcause⟩ := hp
      rw [exec_hbDecim_of_clean hvalid hclean hcause] at h
      cases h; rfl

theorem exec_filtSelect_lk {fi hi : BitVec 3} {lk : Bool} (h : exec (.filtSelect fi hi lk []) s = .next t) :
    t.filt.lk = (s.filt.lk || lk) := by
  cases hlk : s.filt.lk with
  | true =>
    rw [exec_filtSelect_of_locked fi hi lk hlk] at h
    cases h
    exact hlk
  | false =>
    rw [exec_filtSelect_of_unlocked fi hi lk hlk] at h
    cases h; rfl

/-! ## What keeps it -/

/-- A locked selection of `f` stands in `g` (42_filter.md R168). -/
def Filters.SelectionStands (f g : Filters) : Prop := f.lk = true → g.lk = true ∧ g.fi = f.fi ∧ g.hi = f.hi

theorem Filters.SelectionStands.refl (f : Filters) : f.SelectionStands f := fun h => ⟨h, rfl, rfl⟩

theorem FiltStep.selectionStands {i : Instr} {v : Filters} (h : FiltStep s i v) : s.filt.SelectionStands v := by
  intro hlk
  cases h with
  | @load b => cases b <;> exact ⟨hlk, rfl, rfl⟩
  | idle | reset | resetAll => exact ⟨hlk, rfl, rfl⟩
  | firNormal | firPoisoned | hbNormal | hbPoisoned => exact ⟨rfl, rfl, rfl⟩
  | select hunlocked => exact absurd (hlk.symm.trans hunlocked) (by decide)

theorem receive_filt (s : State) : s.receive.filt = s.filt := by
  unfold State.receive
  split <;> rfl

theorem engineStep_selectionStands (h : s.engineStep = .next t) : s.filt.SelectionStands t.filt := by
  cases hc : s.ca.isComplete with
  | true =>
    obtain ⟨hd, p, pay, hca⟩ := (Assembly.isComplete_iff _).mp hc
    rw [engineStep_complete hca] at h
    obtain ⟨u, hrun, rfl | ⟨-, rfl⟩⟩ := performWords_cases h
    · exact .refl _
    · obtain ⟨i, heff⟩ := runWords_effect hrun
      exact heff.filt.selectionStands
  | false =>
    rw [engineStep_incomplete hc] at h
    cases h
    rw [receive_filt]
    exact .refl _

theorem step_selectionStands (h : step s = .next t) (hon : ∀ rest, s.agenda ≠ .powerOn :: rest) :
    s.filt.SelectionStands t.filt := by
  unfold step State.takeTurn at h
  split at h
  · exact engineStep_selectionStands h
  next rest _ => exact engineStep_selectionStands (s := s.after rest) h
  next rest hagenda => exact absurd hagenda (hon rest)
  next a rest _ =>
    split at h
    · exact engineStep_selectionStands h
    · cases h
      rw [(hostStep_frame (s.after rest) a).filt]
      exact .refl _

end

/-- Settles O34: what sets the lock command by command, and what a filter step and a turn keep. -/
theorem selectionImmutable : Obligations.SelectionImmutable := by
  refine ⟨fun _ _ _ => exec_firApply_lk, fun _ _ _ => exec_hbDecim_lk, fun _ _ _ _ _ => exec_filtSelect_lk,
    fun _ _ _ h => (exec_effect h).filt.selectionStands, fun _ _ h hlk hon => step_selectionStands h hon hlk,
    fun s rest h => ⟨(s.after rest).powerOn, ?_, rfl⟩⟩
  simp only [step, State.takeTurn, h]

end Sys2Proof.Machine
end

section
/-! PROOFS. The symbol delay line (43_delay_line.md): the line in logical order, what an insert, an update, an adjust and an
extraction make of it, and the law of its pointer. -/

namespace Sys2Proof.Machine

/-! ## The line in logical order -/

/-- Symbol `j` of a line of `n` symbols, oldest first (R190). -/
def DelayLine.view (n : Nat) (l : DelayLine) (j : Nat) : Dibit := l.buf.getD ((l.ptr + j) % n) 0

theorem logical_eq_view (s : State) (j : Nat) : s.logical j = s.dl.view s.cfg.dlCapacity j := rfl

/-- Logical places less than a whole line apart stand in slots of their own. -/
theorem slot_inj {n p i j : Nat} (hi : i < n) (hj : j < n) (h : (p + i) % n = (p + j) % n) : i = j :=
  (Nat.ModEq.add_left_cancel' p h).eq_of_lt_of_lt hi hj

section
variable {c : Config} {l : DelayLine}

/-- The new symbol is the newest one (R191). -/
theorem DelayLine.Ok.view_insert_newest (h : l.Ok c) (sym : Dibit) :
    (l.insert c sym).view c.dlCapacity (c.dlCapacity - 1) = sym := by
  obtain ⟨hlen, hptr⟩ := h
  have hslot : ((l.ptr + 1) % c.dlCapacity + (c.dlCapacity - 1)) % c.dlCapacity = l.ptr := by
    rw [Nat.mod_add_mod, show l.ptr + 1 + (c.dlCapacity - 1) = l.ptr + c.dlCapacity by omega, Nat.add_mod_right,
      Nat.mod_eq_of_lt hptr]
  simp [DelayLine.view, DelayLine.insert, hslot, hlen, hptr]

/-- Every other symbol moves one place toward the oldest (R191). -/
theorem DelayLine.Ok.view_insert (h : l.Ok c) (sym : Dibit) {j : Nat} (hj : j + 1 < c.dlCapacity) :
    (l.insert c sym).view c.dlCapacity j = l.view c.dlCapacity (j + 1) := by
  have hslot : ((l.ptr + 1) % c.dlCapacity + j) % c.dlCapacity = (l.ptr + (j + 1)) % c.dlCapacity := by
    rw [Nat.mod_add_mod, Nat.add_right_comm, Nat.add_assoc]
  have hne : l.ptr ≠ (l.ptr + (j + 1)) % c.dlCapacity := fun heq => by
    have hzero : (l.ptr + 0) % c.dlCapacity = (l.ptr + (j + 1)) % c.dlCapacity := (Nat.mod_eq_of_lt h.2).trans heq
    exact absurd (slot_inj (by omega) hj hzero) (by omega)
  simp [DelayLine.view, DelayLine.insert, hslot, hne]

end

/-- What stands `i` slots on from `base` after an overwrite from there: the new symbol, or the old one past the new ones
(R192). -/
theorem overwrite_getD {n base i : Nat} {buf ds : List Dibit} (hbuf : buf.length = n) (hds : ds.length ≤ n) (hi : i < n) :
    (overwrite n base buf ds).getD ((base + i) % n) 0 =
      if i < ds.length then ds.getD i 0 else buf.getD ((base + i) % n) 0 := by
  induction ds generalizing base i buf with
  | nil => simp [overwrite]
  | cons d ds ih =>
    rw [List.length_cons] at hds
    have hset : (buf.set (base % n) d).length = n := by simpa using hbuf
    cases i with
    | zero =>
      have hlast : (base + 1 + (n - 1)) % n = (base + 0) % n := by
        rw [show base + 1 + (n - 1) = base + 0 + n by omega, Nat.add_mod_right]
      have hrest := ih (base := base + 1) (i := n - 1) hset (by omega) (by omega)
      rw [hlast, if_neg (by omega)] at hrest
      rw [overwrite, hrest]
      simp [hbuf, Nat.mod_lt _ hi]
    | succ i =>
      have hne : base % n ≠ (base + (i + 1)) % n := fun heq =>
        absurd (slot_inj (i := 0) (p := base) (by omega) hi heq) (by omega)
      have hrest := ih (base := base + 1) (i := i) hset (by omega) (by omega)
      rw [show base + 1 + i = base + (i + 1) by omega] at hrest
      simpa [overwrite, hne] using hrest

/-! ## DL.INSERT -/

/-- The DL_EJECTED event (30_encoding.md R105). -/
theorem eventWords_dlEjected {h : Word} (hsrc : h.extractLsb' 24 8 = 0x30) (d : Dibit) :
    eventWords .dlEjected h (d.setWidth 16) [] = [0x0330#16 ++ 0#14 ++ d, 0] := by
  have hinfo : d.setWidth 16 = 0#14 ++ d := BitVec.setWidth_eq_append (by decide)
  rw [eventWords, hsrc, hinfo, BitVec.append_assoc (x₁ := 0x0330#16)]
  rfl

/-- An insert before a correlation, whole; it does not depend on C (R191). -/
theorem insertSymbol_eq (s : State) (sym : Dibit) (c e : Bool) :
    s.insertSymbol (Instr.dlInsert sym c e []).header sym e = { s with
      dl := s.dl.insert s.cfg sym
      evq := s.evq ++ if e then [0x0330#16 ++ 0#14 ++ s.dl.buf.getD s.dl.ptr 0, 0] else [] } := by
  have hsrc : (Instr.dlInsert sym c e []).header.extractLsb' 24 8 = 0x30 := Laws.OpcodeByte.dlInsert sym c e []
  cases e with
  | true => rw [if_pos rfl, ← eventWords_dlEjected hsrc]; rfl
  | false => rw [if_neg Bool.false_ne_true, List.append_nil]; rfl

theorem exec_dlInsert (s : State) (sym : Dibit) (c e : Bool) :
    exec (.dlInsert sym c e []) s = .next (
      if c then (s.insertSymbol (Instr.dlInsert sym c e []).header sym e).correlate (Instr.dlInsert sym c e []).header
      else s.insertSymbol (Instr.dlInsert sym c e []).header sym e) :=
  (runCommand_of_lengthOk rfl : execDlInsert sym c e [] s = _)

/-- Correlation or not, the line takes the symbol (R191). -/
theorem exec_dlInsert_line (s : State) (sym : Dibit) (c e : Bool) :
    ∃ t, exec (.dlInsert sym c e []) s = .next t ∧ t.cfg = s.cfg ∧ t.dl = s.dl.insert s.cfg sym := by
  refine ⟨_, exec_dlInsert s sym c e, ?_⟩
  rw [insertSymbol_eq]
  cases c with
  | false => exact ⟨rfl, rfl⟩
  | true =>
    obtain ⟨-, hrep⟩ := correlate_report { s with
      dl := s.dl.insert s.cfg sym
      evq := s.evq ++ if e then [0x0330#16 ++ 0#14 ++ s.dl.buf.getD s.dl.ptr 0, 0] else [] }
      (Instr.dlInsert sym true e []).header
    exact ⟨hrep.cfg, hrep.dl⟩

/-- Settles O35: the insert as one record update, and the line's logical order after it. -/
theorem dlInsertResult : Obligations.DlInsertResult := by
  intro s sym e
  refine ⟨?_, fun c hok => ?_⟩
  · rw [exec_dlInsert, insertSymbol_eq]; rfl
  · obtain ⟨t, hexec, hcfg, hdl⟩ := exec_dlInsert_line s sym c e
    refine ⟨t, hexec, hdl, ?_, fun j hj => ?_⟩ <;> rw [logical_eq_view, hcfg, hdl]
    · exact hok.view_insert_newest sym
    · exact hok.view_insert sym hj

/-! ## DL.UPDATE and DL.ADJUST -/

theorem lengthOk_dlUpdate {c : Config} {n : BitVec 12} {pay : List Word} (hpay : pay.length = (n.toNat + 15) / 16) :
    (Instr.dlUpdate n pay).lengthOk c = true := decide_eq_true hpay

section
variable {s : State} {n : BitVec 12} {pay : List Word}

theorem exec_dlUpdate_of_fits (hpay : pay.length = (n.toNat + 15) / 16) (hn : n.toNat ≤ s.cfg.dlCapacity) :
    exec (.dlUpdate n pay) s = .next { s with
      dl := { s.dl with
        buf := overwrite s.cfg.dlCapacity (s.dl.ptr + s.cfg.dlCapacity - n.toNat) s.dl.buf
          (unpackDibits n.toNat pay) } } :=
  (runCommand_of_lengthOk (lengthOk_dlUpdate hpay) : execDlUpdate n pay s = _).trans
    (congrArg _ (if_neg (Nat.not_lt.mpr hn)))

theorem exec_dlUpdate_of_exceeds (hpay : pay.length = (n.toNat + 15) / 16) (hn : s.cfg.dlCapacity < n.toNat) :
    exec (.dlUpdate n pay) s = .next (s.takeError .operandRange (0x31000#20 ++ n)) :=
  (runCommand_of_lengthOk (lengthOk_dlUpdate hpay) : execDlUpdate n pay s = _).trans (congrArg _ (if_pos hn))

end

theorem exec_dlAdjust (s : State) (d : Bool) :
    exec (.dlAdjust d []) s = .next { s with
      dl := { s.dl with
        ptr := if d then (s.dl.ptr + s.cfg.dlCapacity - 1) % s.cfg.dlCapacity
          else (s.dl.ptr + 1) % s.cfg.dlCapacity } } :=
  (runCommand_of_lengthOk rfl : execDlAdjust d [] s = _)

/-- A pointer moved by `k` rotates the logical order by `k` (R193). -/
theorem view_rotate (n k : Nat) (l : DelayLine) (j : Nat) :
    DelayLine.view n { l with ptr := (l.ptr + k) % n } j = l.view n ((j + k) % n) := by
  simp only [DelayLine.view, Nat.mod_add_mod, Nat.add_mod_mod, Nat.add_assoc, Nat.add_comm k j]

section
variable {n k : Nat} {l : DelayLine} {ds : List Dibit}

/-- After an update with `k` symbols the newest `k` places hold them, in order (R192). -/
theorem view_overwrite_new (hbuf : l.buf.length = n) (hds : ds.length = k) (hk : k ≤ n) {i : Nat} (hi : i < k) :
    DelayLine.view n { l with buf := overwrite n (l.ptr + n - k) l.buf ds } (n - k + i) = ds.getD i 0 := by
  have hplace : l.ptr + (n - k + i) = l.ptr + n - k + i := by omega
  rw [DelayLine.view, hplace, overwrite_getD hbuf (by omega) (by omega), if_pos (by omega)]

/-- The older places keep their symbols (R192). -/
theorem view_overwrite_old (hbuf : l.buf.length = n) (hds : ds.length = k) (hk : k ≤ n) {j : Nat} (hj : j < n - k) :
    DelayLine.view n { l with buf := overwrite n (l.ptr + n - k) l.buf ds } j = l.view n j := by
  have hslot : (l.ptr + j) % n = (l.ptr + n - k + (k + j)) % n := by
    rw [show l.ptr + n - k + (k + j) = l.ptr + j + n by omega, Nat.add_mod_right]
  rw [DelayLine.view, DelayLine.view, hslot, overwrite_getD hbuf (by omega) (by omega), if_neg (by omega)]

end

/-- Settles O37: the overwrite read back place by place, and the rotation by one either way. -/
theorem dlUpdateAndAdjust : Obligations.DlUpdateAndAdjust := by
  rintro s ⟨hlen, hptr⟩
  refine ⟨fun n pay hpay hn => ?_, fun n pay hpay hn => exec_dlUpdate_of_exceeds hpay hn, ?_, ?_⟩
  · have hsyms : (unpackDibits n.toNat pay).length = n.toNat := unpackDibits_length _ _
    refine ⟨_, exec_dlUpdate_of_fits hpay hn, rfl, rfl, overwrite_length _ _ _ _, fun i hi => ?_,
      fun j hj => view_overwrite_old hlen hsyms hn hj⟩
    rw [logical_eq_view, view_overwrite_new hlen hsyms hn hi]
    simp [unpackDibits, hi, dibitAt]
  · exact ⟨_, exec_dlAdjust s false, rfl, view_rotate _ 1 s.dl⟩
  · refine ⟨_, exec_dlAdjust s true, rfl, fun j => ?_⟩
    have hone : 1 ≤ s.cfg.dlCapacity := Nat.one_le_of_lt hptr
    simp only [logical_eq_view, if_true, Nat.add_sub_assoc hone]
    exact view_rotate _ _ s.dl j

/-! ## DL.EXTRACT -/

/-- Message bit `j` of the packed words is the message's, and 0 in the padding and past it (R9). -/
theorem bitAt_packBits_or_zero (m : Message) (j : Nat) : bitAt (packBits m) j = m.getD j false := by
  by_cases hj : j < m.length
  · exact bitAt_packBits m hj
  · rw [List.getD_eq_default _ _ (Nat.le_of_not_lt hj), bitAt]
    by_cases hk : j / 32 < ceilDiv m.length 32
    · have hword : (packBits m).getD (j / 32) 0 = wordOfBits m (j / 32) := by simp [packBits, hk]
      rw [hword, wordOfBits_getMsbD _ _ (Nat.mod_lt _ (by decide)), Nat.div_add_mod,
        List.getD_eq_default _ _ (Nat.le_of_not_lt hj)]
    · rw [List.getD_eq_default _ _ (by simpa using hk), BitVec.ofNat_eq_ofNat, BitVec.getMsbD_zero]

/-- Dibit `j` of the packed words is the sequence's, and 0 in the padding and past it (R10). -/
theorem dibitAt_packDibits (ds : List Dibit) (j : Nat) : dibitAt (packDibits ds) j = ds.getD j 0 := by
  apply expandDibit_injective
  rw [dibitAt_bits, packDibits, bitAt_packBits_or_zero, bitAt_packBits_or_zero]
  by_cases hj : j < ds.length
  · rw [expandDibits_getD ds hj, List.getD_eq_getElem _ _ hj]
  · have hlen := expandDibits_length ds
    rw [List.getD_eq_default _ _ (by omega), List.getD_eq_default _ _ (by omega), List.getD_eq_default _ _ (by omega)]
    rfl

theorem packDibits_length (ds : List Dibit) : (packDibits ds).length = (ds.length + 15) / 16 := by
  rw [packDibits, packBits_length, expandDibits_length, ceilDiv]; omega

/-- The DL_DATA event (30_encoding.md R105). -/
theorem eventWords_dlData {h : Word} (hsrc : h.extractLsb' 24 8 = 0x33) (len : BitVec 12) (ws : List Word) :
    eventWords .dlData h (len.setWidth 16) ws = [0x0433#16 ++ 0#4 ++ len, BitVec.ofNat 32 ws.length] ++ ws := by
  have hinfo : len.setWidth 16 = 0#4 ++ len := BitVec.setWidth_eq_append (by decide)
  rw [eventWords, hsrc, hinfo, BitVec.append_assoc (x₁ := 0x0433#16)]
  rfl

section
variable {s : State} {start len : BitVec 12}

/-- The symbols that DL.EXTRACT names (R194). -/
def State.extracted (s : State) (start len : BitVec 12) : List Dibit :=
  (List.range len.toNat).map fun i => s.logical (start.toNat + i)

@[simp] theorem extracted_length : (s.extracted start len).length = len.toNat := by simp [State.extracted]

theorem exec_dlExtract_of_fits (h : start.toNat + len.toNat ≤ s.cfg.dlCapacity) :
    exec (.dlExtract start len []) s = .next { s with
      evq := s.evq ++ [0x0433#16 ++ 0#4 ++ len, BitVec.ofNat 32 ((len.toNat + 15) / 16)] ++
        packDibits (s.extracted start len) } := by
  have hsrc : (Instr.dlExtract start len []).header.extractLsb' 24 8 = 0x33 := Laws.OpcodeByte.dlExtract start len []
  have hevent := eventWords_dlData hsrc len (packDibits (s.extracted start len))
  rw [packDibits_length, extracted_length] at hevent
  rw [List.append_assoc, ← hevent]
  exact (runCommand_of_lengthOk rfl : execDlExtract start len [] s = _).trans
    (congrArg _ (if_neg (Nat.not_lt.mpr h)))

theorem exec_dlExtract_of_exceeds (h : s.cfg.dlCapacity < start.toNat + len.toNat) :
    exec (.dlExtract start len []) s = .next (s.takeError .operandRange (0x33#8 ++ len ++ start)) :=
  (runCommand_of_lengthOk rfl : execDlExtract start len [] s = _).trans (congrArg _ (if_pos h))

end

/-- Settles O38: the packed words read back dibit by dibit, padding too. -/
theorem dlExtractReturnsSymbols : Obligations.DlExtractReturnsSymbols := by
  intro s start len
  refine ⟨fun h => ⟨_, exec_dlExtract_of_fits h, ?_, fun i _ => ?_⟩, exec_dlExtract_of_exceeds⟩
  · rw [packDibits_length, extracted_length]
  · refine (dibitAt_packDibits (s.extracted start len) i).trans ?_
    split
    next hi => simp [State.extracted, hi]
    next hi => exact List.getD_eq_default _ _ (by simpa using hi)

/-! ## The pointer -/

/-- Every command that moves the pointer leaves it below L (R196). -/
theorem DlStep.ptr_lt {s : State} {i : Instr} {v : DelayLine} (h : DlStep s i v) (hptr : s.dl.ptr < s.cfg.dlCapacity) :
    v.ptr < s.cfg.dlCapacity := by
  have hcap : 0 < s.cfg.dlCapacity := Nat.zero_lt_of_lt hptr
  cases h with
  | idle | update => exact hptr
  | insert | adjust => exact Nat.mod_lt _ hcap
  | reset | resetAll => exact hcap

/-- Receiving a word changes CMDQ and CA only (10_state.md R20). -/
theorem receive_eq (s : State) : s.receive = { s with cmdq := s.receive.cmdq, ca := s.receive.ca } := by
  unfold State.receive
  split <;> rfl

/-- Settles O39: only a command moves the pointer, by a step of the line, and power-on. -/
theorem pointerLaw : Obligations.PointerLaw := by
  refine ⟨fun c hcap => hcap, fun s t hstep hptr => ?_⟩
  cases step_cases hstep with
  | receive rest => rw [receive_eq]; exact hptr
  | hold => exact hptr
  | perform rest hca hrun hroom =>
    obtain ⟨i, heff⟩ := runWords_effect hrun
    exact heff.cfg ▸ heff.dl.ptr_lt (s := s.after rest) hptr
  | host rest a hfree =>
    have hframe := hostStep_frame (s.after rest) a
    rw [hframe.dl, hframe.cfg]
    exact hptr
  | powerOn => exact Nat.zero_lt_of_lt hptr

end Sys2Proof.Machine
end

section
/-! PROOFS. The ring law of the delay line (43_delay_line.md R197): commands that only insert shift the line through, symbol by
symbol, and DL.EXTRACT reads what is left in it. -/

namespace Sys2Proof.Machine

/-- A line of `n` symbols in logical order (R190). -/
def DelayLine.symbols (n : Nat) (l : DelayLine) : List Dibit := (List.range n).map (l.view n)

/-- The symbols of the line with `ds` shifted in: as many of the oldest drop out (R191). -/
def DelayLine.shifted (n : Nat) (l : DelayLine) (ds : List Dibit) : List Dibit := (l.symbols n ++ ds).drop ds.length

section
variable {n : Nat} {l l' : DelayLine} {ds : List Dibit}

@[simp] theorem symbols_length (n : Nat) (l : DelayLine) : (l.symbols n).length = n := by simp [DelayLine.symbols]

@[simp] theorem shifted_nil (n : Nat) (l : DelayLine) : l.shifted n [] = l.symbols n := by simp [DelayLine.shifted]

/-- Two shifts one after the other are one. -/
theorem shifted_append (h : l'.symbols n = l.shifted n ds) (es : List Dibit) :
    l'.shifted n es = l.shifted n (ds ++ es) := by
  rw [DelayLine.shifted, h, DelayLine.shifted, ← List.drop_append_of_le_length (by simp), List.drop_drop, DelayLine.shifted,
    List.append_assoc, List.length_append]

/-- At least a whole line shifted in leaves the last line of it. -/
theorem shifted_of_le_length (l : DelayLine) (h : n ≤ ds.length) : l.shifted n ds = ds.drop (ds.length - n) := by
  rw [DelayLine.shifted, List.drop_append, symbols_length, List.drop_eq_nil_of_le (by simpa using h), List.nil_append]

end

/-! ## One command -/

/-- An insert shifts in its symbol (R191). -/
theorem DelayLine.Ok.symbols_insert {c : Config} {l : DelayLine} (h : l.Ok c) (sym : Dibit) :
    (l.insert c sym).symbols c.dlCapacity = l.shifted c.dlCapacity [sym] := by
  obtain ⟨m, hm⟩ : ∃ m, c.dlCapacity = m + 1 := Nat.exists_eq_add_one.mpr (Nat.zero_lt_of_lt h.2)
  have holder : (List.range m).map ((l.insert c sym).view (m + 1)) = (List.range m).map fun j => l.view (m + 1) (j + 1) :=
    List.map_congr_left fun j hj => by
      rw [← hm]
      exact h.view_insert sym (by have := List.mem_range.mp hj; omega)
  have hnewest : (l.insert c sym).view (m + 1) m = sym := by
    simpa [hm] using h.view_insert_newest sym
  rw [DelayLine.shifted, DelayLine.symbols, DelayLine.symbols, hm]
  calc (List.range (m + 1)).map ((l.insert c sym).view (m + 1))
      = (List.range m).map (fun j => l.view (m + 1) (j + 1)) ++ [sym] := by
        rw [List.range_succ, List.map_append, holder, List.map_singleton, hnewest]
    _ = ((List.range (m + 1)).map (l.view (m + 1)) ++ [sym]).drop 1 := by
        rw [List.range_succ_eq_map, List.map_cons, List.map_map]; rfl

section
variable {s t : State}

/-- A command that disturbs no line shifts in the symbol it inserts, if it inserts one. -/
theorem exec_symbols {i : Instr} (hok : s.dl.Ok s.cfg) (hi : disturbsLine i = false) (h : exec i s = .next t) :
    t.dl.symbols s.cfg.dlCapacity = s.dl.shifted s.cfg.dlCapacity (insertedSymbol i).toList := by
  have unmoved (hdl : t.dl = s.dl) (hnone : insertedSymbol i = none) :
      t.dl.symbols s.cfg.dlCapacity = s.dl.shifted s.cfg.dlCapacity (insertedSymbol i).toList := by
    rw [hdl, hnone, Option.toList_none, shifted_nil]
  cases i with
  | dlInsert sym c e pay =>
    cases pay with
    | nil =>
      obtain ⟨u, hexec, -, hdl⟩ := exec_dlInsert_line s sym c e
      cases h.symm.trans hexec
      rw [hdl]
      exact hok.symbols_insert sym
    | cons w pay =>
      have hreject : execDlInsert sym c e (w :: pay) s = _ := runCommand_of_not_lengthOk rfl
      cases h.symm.trans hreject
      exact unmoved rfl rfl
  | dlUpdate | dlAdjust | dlReset | resetAll => cases hi
  | _ => exact unmoved ((exec_effect h).dl.eq_of_not_drives rfl) rfl

/-! ## A list of commands -/

theorem execAll_cons {i : Instr} {is : List Instr} (h : execAll (i :: is) s = .next t) :
    ∃ u, exec i s = .next u ∧ execAll is u = .next t := by
  rw [execAll] at h
  split at h
  next u hu => exact ⟨u, hu, h⟩
  all_goals cases h

/-- Commands that disturb no line shift in the symbols they insert, in order. -/
theorem execAll_symbols {is : List Instr} (hok : s.dl.Ok s.cfg) (hi : ∀ i ∈ is, disturbsLine i = false)
    (h : execAll is s = .next t) :
    t.cfg = s.cfg ∧
      t.dl.symbols s.cfg.dlCapacity = s.dl.shifted s.cfg.dlCapacity (is.filterMap insertedSymbol) := by
  induction is generalizing s with
  | nil => cases h; simp
  | cons i is ih =>
    obtain ⟨u, hu, hrest⟩ := execAll_cons h
    have heff := exec_effect hu
    obtain ⟨hfirst, hlater⟩ := List.forall_mem_cons.mp hi
    obtain ⟨hcfg, hsyms⟩ := ih (heff.cfg ▸ heff.dl.ok hok) hlater hrest
    rw [heff.cfg] at hcfg hsyms
    have hsplit : (i :: is).filterMap insertedSymbol = (insertedSymbol i).toList ++ is.filterMap insertedSymbol := by
      cases hs : insertedSymbol i <;> simp [hs]
    exact ⟨hcfg, by rw [hsyms, hsplit, shifted_append (exec_symbols hok hfirst hu)]⟩

end

/-- Settles O36: at least L symbols shifted in leave the last L of them in the line. -/
theorem ringLaw : Obligations.RingLaw := by
  intro s t is hok hcap hi h inserted hlen
  obtain ⟨hcfg, hsyms⟩ := execAll_symbols hok hi h
  have hlast : t.dl.symbols s.cfg.dlCapacity = inserted.drop (inserted.length - s.cfg.dlCapacity) :=
    hsyms.trans (shifted_of_le_length s.dl hlen)
  have hnat : (BitVec.ofNat 12 s.cfg.dlCapacity).toNat = s.cfg.dlCapacity := Nat.mod_eq_of_lt (by omega)
  have hall : t.extracted 0 (BitVec.ofNat 12 s.cfg.dlCapacity) = t.dl.symbols s.cfg.dlCapacity := by
    rw [State.extracted, hnat, DelayLine.symbols, ← hcfg]
    exact List.map_congr_left fun j _ => congrArg t.logical (Nat.zero_add j)
  have hfits : (0 : BitVec 12).toNat + (BitVec.ofNat 12 s.cfg.dlCapacity).toNat ≤ t.cfg.dlCapacity := by
    rw [hnat, hcfg]; exact (Nat.zero_add _).le
  rw [exec_dlExtract_of_fits hfits, hall, hlast, hnat]

end Sys2Proof.Machine
end

section
/-! PROOFS. The outcome of a correlation (44_frame_correlator.md): the matched slots in order, the best of them, and what
DL.INSERT with C = 1 makes of the state after the insert. -/

namespace Sys2Proof.Machine

/-! ## The best match -/

/-- The best match is a match of least distance, and the first of these (R213). -/
theorem bestMatch_least {ms : List (Nat × Nat)} {b : Nat × Nat} (hsorted : ms.Pairwise fun x y => x.1 < y.1)
    (h : bestMatch ms = some b) : b ∈ ms ∧ ∀ m ∈ ms, b.2 < m.2 ∨ (b.2 = m.2 ∧ b.1 ≤ m.1) := by
  induction ms generalizing b with
  | nil => cases h
  | cons m rest ih =>
    obtain ⟨hfirst, hsorted⟩ := List.pairwise_cons.mp hsorted
    cases hrest : bestMatch rest with
    | none =>
      have hempty := (bestMatch_none_iff rest).mp hrest
      subst hempty
      cases h
      simp
    | some b' =>
      obtain ⟨hmem, hleast⟩ := ih hsorted hrest
      have hlt := hfirst b' hmem
      simp only [bestMatch, hrest] at h
      split at h <;> cases h
      next hless => exact ⟨.tail _ hmem, List.forall_mem_cons.mpr ⟨.inl hless, hleast⟩⟩
      next hmore =>
        refine ⟨.head _, List.forall_mem_cons.mpr ⟨.inr ⟨rfl, le_rfl⟩, fun x hx => ?_⟩⟩
        have hx1 := hfirst x hx
        have hx2 := hleast x hx
        omega

section
variable (s : State)

/-- The matched slots are those within their tolerance, each with its distance (R212). -/
theorem mem_matched_iff {m : Nat × Nat} : m ∈ s.matched ↔ ∃ t, s.Matches m.1 t ∧ m.2 = s.distance t := by
  obtain ⟨k, d⟩ := m
  simp only [State.matched, List.mem_map, List.mem_filter, Bool.and_eq_true, decide_eq_true_eq, Prod.exists,
    List.mem_zipIdx_iff_getElem?, Prod.mk.injEq]
  constructor
  · rintro ⟨t, _, ⟨hk, hv, hd⟩, rfl, rfl⟩
    exact ⟨t, ⟨hk, hv, hd⟩, rfl⟩
  · rintro ⟨t, ⟨hk, hv, hd⟩, rfl⟩
    exact ⟨t, k, ⟨hk, hv, hd⟩, rfl, rfl⟩

/-- The matched slots come in slot order. -/
theorem matched_sorted : s.matched.Pairwise fun x y => x.1 < y.1 := by
  have hslots : (s.sync.tpl.zipIdx.map Prod.snd).Pairwise (· < ·) := by
    rw [List.zipIdx_map_snd]
    exact List.pairwise_lt_range'
  exact List.pairwise_map.mpr ((List.pairwise_map.mp hslots).filter _)

/-- Nothing is matched exactly when no slot matches. -/
theorem matched_eq_nil_iff : s.matched = [] ↔ ¬ ∃ k t, s.Matches k t := by
  rw [List.eq_nil_iff_forall_not_mem]
  constructor
  · rintro h ⟨k, t, ht⟩
    exact h (k, s.distance t) ((mem_matched_iff s).mpr ⟨t, ht, rfl⟩)
  · intro h m hm
    obtain ⟨t, ht, -⟩ := (mem_matched_iff s).mp hm
    exact h ⟨m.1, t, ht⟩

end

/-! ## A correlation -/

section
variable {s : State}

/-- With a matching slot a correlation takes the match step of the best one (R213). -/
theorem correlate_of_matches (h : Word) (hmatch : ∃ k t, s.Matches k t) :
    ∃ k t, s.Matches k t ∧
      (∀ j r, s.Matches j r → s.distance t < s.distance r ∨ (s.distance t = s.distance r ∧ k ≤ j)) ∧
      s.correlate h = s.matchStep h k (s.distance t) := by
  obtain ⟨⟨k, d⟩, hbest, heq⟩ | ⟨hnone, -⟩ := correlate_cases s h
  · obtain ⟨hmem, hleast⟩ := bestMatch_least (matched_sorted s) hbest
    obtain ⟨t, ht, rfl⟩ := (mem_matched_iff s).mp hmem
    exact ⟨k, t, ht, fun j r hr => hleast (j, s.distance r) ((mem_matched_iff s).mpr ⟨r, hr, rfl⟩), heq⟩
  · exact absurd hmatch ((matched_eq_nil_iff s).mp ((bestMatch_none_iff _).mp hnone))

/-- Without one it takes the miss step (R214). -/
theorem correlate_of_no_match (h : Word) (hmiss : ¬ ∃ k t, s.Matches k t) : s.correlate h = s.missStep h := by
  rw [State.correlate, (bestMatch_none_iff _).mpr ((matched_eq_nil_iff s).mpr hmiss)]

end

/-- The SYNC_MATCH event of an insert (30_encoding.md R105). -/
theorem eventWords_syncMatch {h : Word} (hsrc : h.extractLsb' 24 8 = 0x30) (d : BitVec 8) (k : BitVec 4) (miss : Word) :
    eventWords .syncMatch h (0#4 ++ d ++ k) [miss] = [0x0530#16 ++ 0#4 ++ d ++ k, 1, miss] := by
  have hhead : 0x0530#16 ++ (0#4 ++ d ++ k) = 0x0530#16 ++ 0#4 ++ d ++ k :=
    BitVec.eq_of_toNat_eq (by simp only [toNat_append_eq]; omega)
  rw [eventWords, hsrc, ← hhead]
  rfl

/-- The SYNC_LOST event of an insert (30_encoding.md R105). -/
theorem eventWords_syncLost {h : Word} (hsrc : h.extractLsb' 24 8 = 0x30) (miss : Word) :
    eventWords .syncLost h 0 [miss] = [0x06300000, 1, miss] := by
  rw [eventWords, hsrc]
  rfl

/-! ## DL.INSERT with C = 1 -/

/-- It correlates in the state after the same insert with C = 0 (43_delay_line.md R191). -/
theorem exec_dlInsert_correlate {s u : State} {sym : Dibit} {e : Bool} (h : exec (.dlInsert sym false e []) s = .next u) :
    exec (.dlInsert sym true e []) s = .next (u.correlate (Instr.dlInsert sym true e []).header) := by
  rw [exec_dlInsert, if_neg Bool.false_ne_true] at h
  cases h
  rw [exec_dlInsert, if_pos rfl, insertSymbol_eq, insertSymbol_eq]

/-- Settles O42: the best match's step, or the miss step by whether the miss reaches the threshold. -/
theorem correlationResult : Obligations.CorrelationResult := by
  intro s u sym e h
  have hsrc : (Instr.dlInsert sym true e []).header.extractLsb' 24 8 = 0x30 := Laws.OpcodeByte.dlInsert sym true e []
  rw [exec_dlInsert_correlate h]
  refine ⟨fun hmatch => ?_, fun hmiss => ⟨fun hthr hsat hreach => ?_, fun hstays => ?_⟩⟩
  · obtain ⟨k, t, ht, hleast, heq⟩ := correlate_of_matches (Instr.dlInsert sym true e []).header hmatch
    refine ⟨k, t, ht, hleast, ?_⟩
    rw [heq, matchStep_eq, eventWords_syncMatch hsrc]
  · rw [if_neg hsat] at hreach
    have hloss : u.reachesLoss := (reachesLoss_iff u).mpr ⟨hthr, hsat, hreach⟩
    rw [correlate_of_no_match _ hmiss, missStep_of_lost _ hloss, eventWords_syncLost hsrc]
    rfl
  · have hno : ¬ u.reachesLoss := by
      rw [reachesLoss_iff]
      rintro ⟨hthr, hsat, hreach⟩
      rw [if_neg hsat] at hstays
      exact hstays.elim hthr (Or.elim · hsat (absurd hreach))
    rw [correlate_of_no_match _ hmiss, missStep_of_not_lost _ hno]
    rfl

end Sys2Proof.Machine
end

section
/-! PROOFS. The templates of the frame correlator (44_frame_correlator.md): what SYNC.LOAD makes of a slot, a template's
distance dibit by dibit, and the threshold at which a correlation matches. -/

namespace Sys2Proof.Machine

/-! ## SYNC.LOAD -/

/-- The template length check as an inequality chain (R211). -/
theorem templateLegal_iff (c : Config) (n : Nat) : templateLegal c n = true ↔ 1 ≤ n ∧ n ≤ 64 ∧ n ≤ c.dlCapacity := by
  simp only [templateLegal, Bool.and_eq_true, decide_eq_true_iff]
  exact and_assoc

/-- The pattern of a template, bit by bit from the payload (R210). -/
theorem expandDibits_unpackDibits (n : Nat) (ws : List Word) :
    expandDibits (unpackDibits n ws) = (List.range n).flatMap fun i =>
      [(dibitAt ws i).getLsbD 1, (dibitAt ws i).getLsbD 0] :=
  List.flatMap_map (dibitAt ws) expandDibit (List.range n)

section
variable {s : State} {k : BitVec 4} {ndib tol : BitVec 7} {v : Bool} {pay : List Word}

/-- SYNC.LOAD of the right length: the slot, and to load it the length, decide (R210). -/
theorem exec_syncLoad (hpay : pay.length = if v then (ndib.toNat + 15) / 16 else 0) :
    exec (.syncLoad k ndib tol v pay) s = .next (
      if s.cfg.maxTemplates ≤ k.toNat then
        s.takeError .operandRange (0x40#8 ++ 0#5 ++ BitVec.ofBool v ++ tol ++ ndib ++ k)
      else if !v then { s with
        sync := { s.sync with
          tpl := s.sync.tpl.set k.toNat { s.sync.tpl.getD k.toNat Template.reset with v := false } } }
      else if !templateLegal s.cfg ndib.toNat then
        s.takeError .operandRange (0x40#8 ++ 0#5 ++ BitVec.ofBool v ++ tol ++ ndib ++ k)
      else { s with
        sync := { s.sync with
          tpl := s.sync.tpl.set k.toNat {
            v := true, ndib := ndib.toNat, tol := tol.toNat
            pat := expandDibits (unpackDibits ndib.toNat pay) } } }) :=
  (runCommand_of_lengthOk (decide_eq_true hpay) : execSyncLoad k ndib tol v pay s = _)

/-- A slot that the build lacks rejects, whether to be loaded or cleared (R210). -/
theorem exec_syncLoad_of_no_slot (hpay : pay.length = if v then (ndib.toNat + 15) / 16 else 0)
    (hk : s.cfg.maxTemplates ≤ k.toNat) :
    exec (.syncLoad k ndib tol v pay) s =
      .next (s.takeError .operandRange (0x40#8 ++ 0#5 ++ BitVec.ofBool v ++ tol ++ ndib ++ k)) := by
  rw [exec_syncLoad hpay, if_pos hk]

end

/-- Settles O40: by the slot, V and the length. -/
theorem syncLoadEffect : Obligations.SyncLoadEffect := by
  intro s k ndib tol pay
  refine ⟨fun t ht hk => ?clear, fun hpay hk hfits => ?load, fun hpay hbad => ?reject, exec_syncLoad_of_no_slot rfl⟩
  case clear =>
    have hold : s.sync.tpl.getD k.toNat Template.reset = t := by rw [List.getD_eq_getElem?_getD, ht, Option.getD_some]
    rw [exec_syncLoad rfl, if_neg (Nat.not_le.mpr hk), Bool.not_false, if_pos rfl, hold]
  case load =>
    have hlegal := (templateLegal_iff s.cfg ndib.toNat).mpr hfits
    rw [exec_syncLoad hpay, if_neg (Nat.not_le.mpr hk), hlegal, expandDibits_unpackDibits]
    rfl
  case reject =>
    by_cases hk : s.cfg.maxTemplates ≤ k.toNat
    · exact exec_syncLoad_of_no_slot hpay hk
    · have hillegal : templateLegal s.cfg ndib.toNat = false :=
        Bool.eq_false_iff.mpr fun h => hbad.elim hk (absurd ((templateLegal_iff _ _).mp h))
      rw [exec_syncLoad hpay, if_neg hk, hillegal]
      rfl

/-! ## The distance of a template -/

/-- The distance of two expansions is the sum of their dibits' distances, as far as both reach (R212). -/
theorem hamming_expandDibits (as bs : List Dibit) :
    hamming (expandDibits as) (expandDibits bs) = (List.zipWith dibitDistance as bs).sum := by
  have hdibit : ∀ a b : Dibit, hamming (expandDibit a) (expandDibit b) = dibitDistance a b := by decide
  induction as generalizing bs with
  | nil => simp [hamming, expandDibits]
  | cons a as ih =>
    cases bs with
    | nil => simp [hamming, expandDibits]
    | cons b bs =>
      have hsplit : hamming (expandDibits (a :: as)) (expandDibits (b :: bs)) =
          hamming (expandDibit a) (expandDibit b) + hamming (expandDibits as) (expandDibits bs) := by
        rw [hamming, hamming, hamming, ← List.count_append]
        rfl
      rw [hsplit, hdibit, ih, List.zipWith_cons_cons, List.sum_cons]

/-- Settles O41: window and pattern are both expansions of dibit sequences. -/
theorem windowDistance : Obligations.WindowDistance := by
  intro s t ps hlen hpat
  rw [State.distance, State.window, hlen, hpat, hamming_expandDibits]
  refine congrArg List.sum (List.ext_getElem (by simp) fun i _ hi => ?_)
  have hi : i < ps.length := by simpa using hi
  simp [hi]

/-! ## The threshold of a correlation -/

/-- The first word of a SYNC_MATCH event of an insert is no SYNC_LOST's (30_encoding.md R105). -/
theorem syncMatch_head_ne_syncLost (info : BitVec 16) : 0x0530#16 ++ info ≠ 0x06300000#32 := fun h => by
  have hnat := congrArg BitVec.toNat h
  rw [toNat_append_eq] at hnat
  have hlt := info.isLt
  simp only [BitVec.toNat_ofNat] at hnat
  omega

section
variable {u : State} {h : Word}

/-- The miss step counts, saturating, and by whether it reaches the threshold it fires SYNC_LOST (R214). -/
theorem missStep_eq (hsrc : h.extractLsb' 24 8 = 0x30) :
    u.missStep h = { u with
      evq := u.evq ++ if u.reachesLoss then [0x06300000, 1, satSucc u.sync.miss] else []
      sync := { u.sync with
        miss := satSucc u.sync.miss, inSync := if u.reachesLoss then false else u.sync.inSync }
      cnt := { u.cnt with syncLost := if u.reachesLoss then u.cnt.syncLost + 1 else u.cnt.syncLost } } := by
  by_cases hl : u.reachesLoss
  · simp only [missStep_of_lost h hl, eventWords_syncLost hsrc, if_pos hl]
  · simp only [missStep_of_not_lost h hl, if_neg hl, List.append_nil]

/-- Unless a saturated count meets a threshold of 2^32-1, the miss fires exactly when the new count is a nonzero
threshold (log 25). -/
theorem reachesLoss_iff_of_not_corner (hcorner : u.sync.miss ≠ 0xFFFFFFFF#32 ∨ u.csr.syncLossThr ≠ 0xFFFFFFFF#32) :
    u.reachesLoss ↔ u.csr.syncLossThr ≠ 0 ∧ satSucc u.sync.miss = u.csr.syncLossThr := by
  rw [reachesLoss_iff, satSucc]
  by_cases hsat : u.sync.miss = 0xFFFFFFFF#32
  · have hthr : u.csr.syncLossThr ≠ 0xFFFFFFFF#32 := hcorner.resolve_left (absurd hsat)
    simp [hsat, hthr.symm]
  · simp [hsat]

/-- A correlation emits SYNC_MATCH exactly when a slot matches (R216). -/
theorem correlate_emits_match_iff (hsrc : h.extractLsb' 24 8 = 0x30) :
    (∃ (info : BitVec 16) (miss : Word), (u.correlate h).evq = u.evq ++ [0x0530#16 ++ info, 1, miss]) ↔
      ∃ k r, u.Matches k r := by
  constructor
  · rintro ⟨info, miss, hevq⟩
    by_contra hno
    rw [correlate_of_no_match h hno, missStep_eq hsrc] at hevq
    have hev := List.append_cancel_left hevq
    split at hev
    · exact syncMatch_head_ne_syncLost info (List.head_eq_of_cons_eq hev).symm
    · exact List.cons_ne_nil _ _ hev.symm
  · intro hmatch
    obtain ⟨k, r, -, -, heq⟩ := correlate_of_matches h hmatch
    refine ⟨0#4 ++ BitVec.ofNat 8 (u.distance r) ++ BitVec.ofNat 4 k, u.sync.miss, ?_⟩
    rw [heq, matchStep_eq, eventWords, hsrc]
    rfl

/-- With one loaded slot a match is a match of that slot. -/
theorem exists_matches_iff_of_only {k : Nat} {r : Template} (hr : u.sync.tpl[k]? = some r) (hv : r.v = true)
    (honly : ∀ j q, u.sync.tpl[j]? = some q → q.v = true → j = k) :
    (∃ j q, u.Matches j q) ↔ u.distance r ≤ r.tol := by
  constructor
  · rintro ⟨j, q, hq, hqv, hle⟩
    obtain rfl := honly j q hq hqv
    obtain rfl := Option.some.inj (hr.symm.trans hq)
    exact hle
  · exact fun hle => ⟨k, r, hr, hv, hle⟩

end

/-- Settles O43: a match or a miss by whether a slot is within its tolerance, for one loaded slot by its distance. -/
theorem syncThreshold : Obligations.SyncThreshold := by
  intro s u t sym e hu ht
  have hsrc : (Instr.dlInsert sym true e []).header.extractLsb' 24 8 = 0x30 := Laws.OpcodeByte.dlInsert sym true e []
  rw [exec_dlInsert_correlate hu] at ht
  cases ht
  have hemits := correlate_emits_match_iff (u := u) hsrc
  refine ⟨hemits, fun k r hr hv honly => ?_⟩
  have hwithin := exists_matches_iff_of_only hr hv honly
  refine ⟨hemits.trans hwithin, fun hd => ?_⟩
  have hno : ¬ ∃ j q, u.Matches j q := fun hmatch => by
    have := hwithin.mp hmatch
    omega
  rw [correlate_of_no_match _ hno, missStep_eq hsrc]
  refine ⟨rfl, rfl, rfl, fun hcorner => ?_⟩
  simp only [reachesLoss_iff_of_not_corner hcorner]
  rfl

end Sys2Proof.Machine
end

section
/-! PROOFS. The trellis decoder's search (45_fec.md R232, R234): the cost table holds the least cost from each state, and the
traced sequence is an admissible one of that cost. -/

namespace Sys2Proof.Machine

/-! ## Least elements -/

theorem minList_cons_cons (a b : Nat) (l : List Nat) : minList (a :: b :: l) = min a (minList (b :: l)) := rfl

theorem minList_le {l : List Nat} {a : Nat} (h : a ∈ l) : minList l ≤ a := by
  induction l with
  | nil => cases h
  | cons b l ih =>
    cases l with
    | nil => exact (List.mem_singleton.mp h).ge
    | cons c l =>
      rcases List.mem_cons.mp h with rfl | h
      · exact minList_cons_cons a c l ▸ Nat.min_le_left _ _
      · exact minList_cons_cons b c l ▸ (Nat.min_le_right _ _).trans (ih h)

theorem minList_mem {l : List Nat} (h : l ≠ []) : minList l ∈ l := by
  induction l with
  | nil => exact absurd rfl h
  | cons b l ih =>
    cases l with
    | nil => exact List.mem_singleton.mpr rfl
    | cons c l =>
      rw [minList_cons_cons]
      rcases Nat.le_total b (minList (c :: l)) with hle | hle
      · rw [Nat.min_eq_left hle]
        exact List.mem_cons_self
      · rw [Nat.min_eq_right hle]
        exact List.mem_cons_of_mem _ (ih (List.cons_ne_nil _ _))

theorem pickOne_mem {us : List Nat} (h : us ≠ []) (r : Word) : pickOne us r ∈ us := by
  unfold pickOne
  split
  · exact List.mem_singleton.mpr rfl
  · have hlt : r.toNat % us.length < us.length := Nat.mod_lt _ (List.length_pos_of_ne_nil h)
    rw [List.getD_eq_getElem _ _ hlt]
    exact List.getElem_mem hlt

/-- The drawn one of the least inputs is an input of least cost, whatever the draw (R234). -/
theorem pickOne_least {us : List Nat} (h : us ≠ []) (cost : Nat → Nat) (r : Word) :
    let u := pickOne (us.filter fun u => cost u = minList (us.map cost)) r
    u ∈ us ∧ cost u = minList (us.map cost) := by
  obtain ⟨v, hv, hleast⟩ := List.mem_map.mp (minList_mem (mt List.map_eq_nil_iff.mp h : us.map cost ≠ []))
  have hne : (us.filter fun u => cost u = minList (us.map cost)) ≠ [] :=
    List.ne_nil_of_mem (List.mem_filter.mpr ⟨hv, decide_eq_true hleast⟩)
  obtain ⟨hu, hcost⟩ := List.mem_filter.mp (pickOne_mem hne r)
  exact ⟨hu, of_decide_eq_true hcost⟩

/-! ## Costs -/

@[simp] theorem symbolCost_cons (r c : BitVec 4) (rs cs : List (BitVec 4)) :
    symbolCost (r :: rs) (c :: cs) = popcount4 (r ^^^ c) + symbolCost rs cs := by
  simp [symbolCost]

@[simp] theorem encodeFrom_length (out : List (List (BitVec 4))) (s : Nat) (us : List Nat) :
    (encodeFrom out s us).length = us.length := by
  induction us generalizing s with
  | nil => rfl
  | cons u us ih => simp [encodeFrom, ih]

/-- Symbols at distance 0 are the same (R234). -/
theorem popcount4_xor_eq_zero : ∀ {r c : BitVec 4}, popcount4 (r ^^^ c) = 0 ↔ r = c := by decide

theorem popcount4_le : ∀ v : BitVec 4, popcount4 v ≤ 4 := by decide

/-- Symbol sequences of one length at distance 0 are the same. -/
theorem symbolCost_eq_zero_iff {rs cs : List (BitVec 4)} (h : rs.length = cs.length) :
    symbolCost rs cs = 0 ↔ rs = cs := by
  induction rs generalizing cs with
  | nil => simp [symbolCost, List.eq_nil_of_length_eq_zero h.symm]
  | cons r rs ih =>
    obtain ⟨c, cs, rfl⟩ := List.exists_cons_of_length_eq_add_one h.symm
    rw [symbolCost_cons, Nat.add_eq_zero_iff, popcount4_xor_eq_zero, ih (Nat.succ.inj h), List.cons.injEq]

/-- A symbol costs at most its four bits. -/
theorem symbolCost_le (rs cs : List (BitVec 4)) : symbolCost rs cs ≤ 4 * rs.length := by
  induction rs generalizing cs with
  | nil => simp [symbolCost]
  | cons r rs ih =>
    cases cs with
    | nil => simp [symbolCost]
    | cons c cs =>
      have hhead := popcount4_le (r ^^^ c)
      have htail := ih cs
      rw [symbolCost_cons, List.length_cons]
      omega

/-! ## Paths through a block -/

/-- The input sequences that a block's steps allow (R232). -/
abbrev Path (n : Nat) (block : List TrellisStep) (us : List Nat) : Prop :=
  List.Forall₂ (fun st u => u ∈ inputsOf n st) block us

/-- The cost of an input sequence from state `s`: the received symbols against its encoding (R234). -/
def pathCost (out : List (List (BitVec 4))) (block : List TrellisStep) (s : Nat) (us : List Nat) : Nat :=
  symbolCost (block.map Prod.fst) (encodeFrom out s us)

theorem mem_inputsOf {n u : Nat} {st : TrellisStep} : u ∈ inputsOf n st ↔ if st.2 then u = 0 else u < n := by
  unfold inputsOf
  split <;> simp

section
variable {n s : Nat} {out : List (List (BitVec 4))} {st : TrellisStep} {block : List TrellisStep} {u : Nat} {us : List Nat}

@[simp] theorem pathCost_cons :
    pathCost out (st :: block) s (u :: us) = popcount4 (st.1 ^^^ outSymbol out s u) + pathCost out block u us :=
  symbolCost_cons _ _ _ _

theorem lt_of_mem_inputsOf (hn : 0 < n) (h : u ∈ inputsOf n st) : u < n := by
  rw [mem_inputsOf] at h
  split at h <;> omega

theorem inputsOf_ne_nil (hn : 0 < n) : inputsOf n st ≠ [] := by
  refine List.ne_nil_of_mem (a := 0) (mem_inputsOf.mpr ?_)
  split
  · rfl
  · exact hn

/-- The cost table's entry of a state is the least cost over the inputs of the first step (R234). -/
theorem costTable_cons_getD (hs : s < n) :
    (costTable n out (st :: block)).getD s 0 =
      minList ((inputsOf n st).map (branchCost out st (costTable n out block) s)) := by
  simp [costTable, hs]

/-- No path costs less than the table's entry. -/
theorem costTable_le_pathCost (hn : 0 < n) (hs : s < n) (h : Path n block us) :
    (costTable n out block).getD s 0 ≤ pathCost out block s us := by
  induction h generalizing s with
  | nil => simp [costTable, hs]
  | @cons st u block us hu _ ih =>
    calc (costTable n out (st :: block)).getD s 0
        = minList ((inputsOf n st).map (branchCost out st (costTable n out block) s)) := costTable_cons_getD hs
      _ ≤ branchCost out st (costTable n out block) s u := minList_le (List.mem_map_of_mem hu)
      _ ≤ popcount4 (st.1 ^^^ outSymbol out s u) + pathCost out block u us :=
        Nat.add_le_add_left (ih (lt_of_mem_inputsOf hn hu)) _
      _ = pathCost out (st :: block) s (u :: us) := pathCost_cons.symm

/-- The traced sequence is a path, and its cost is the table's entry, whatever the draws (R234). -/
theorem traceBest_isPath_and_cost (hn : 0 < n) (hs : s < n) (d : Nat) :
    Path n block (traceBest n out block s d) ∧
      pathCost out block s (traceBest n out block s d) = (costTable n out block).getD s 0 := by
  induction block generalizing s d with
  | nil => simp [traceBest, pathCost, encodeFrom, symbolCost, costTable, hs]
  | cons st block ih =>
    obtain ⟨hu, hcost⟩ := pickOne_least (inputsOf_ne_nil (st := st) hn)
      (branchCost out st (costTable n out block) s) (Config.freeWord d)
    obtain ⟨hpath, htail⟩ := ih (lt_of_mem_inputsOf hn hu) (d + 1)
    refine ⟨.cons hu hpath, ?_⟩
    rw [costTable_cons_getD hs, ← hcost, branchCost, ← htail]
    exact pathCost_cons

end

/-! ## The block of a payload -/

@[simp] theorem receivedSymbols_length (n : Nat) (ws : List Word) : (receivedSymbols n ws).length = n := by
  simp [receivedSymbols]

section
variable {n steps flush : Nat} {rs : List (BitVec 4)} {us : List Nat}

theorem trellisSteps_map_fst (steps flush : Nat) (rs : List (BitVec 4)) :
    (trellisSteps steps flush rs).map Prod.fst = rs := by
  rw [trellisSteps, List.map_map]
  exact List.zipIdx_map_fst 0 rs

/-- The paths through a block of the required length are the admissible sequences (R232). -/
theorem path_trellisSteps_iff (hn : 0 < n) (hrs : rs.length = steps) :
    Path n (trellisSteps steps flush rs) us ↔ Admissible n steps flush us := by
  have hlen : (trellisSteps steps flush rs).length = steps := by simp [trellisSteps, hrs]
  have hforced (i : Nat) (hi : i < (trellisSteps steps flush rs).length) :
      (trellisSteps steps flush rs)[i].2 = decide (steps - flush ≤ i) := by simp [trellisSteps]
  rw [Path, List.forall₂_iff_get]
  constructor
  · rintro ⟨hus, hin⟩
    refine ⟨hus.symm.trans hlen, fun u hu => ?_, fun j hj => ?_⟩
    · obtain ⟨i, hi, rfl⟩ := List.getElem_of_mem hu
      exact lt_of_mem_inputsOf hn (hin i (hus ▸ hi) hi)
    · by_cases hju : j < us.length
      · have hmem := mem_inputsOf.mp (hin j (hus ▸ hju) hju)
        rw [List.getD_eq_getElem _ _ hju]
        simpa [hforced, hj] using hmem
      · exact List.getD_eq_default _ _ (Nat.le_of_not_lt hju)
  · rintro ⟨hus, hlt, hflush⟩
    refine ⟨hlen.trans hus.symm, fun i hi hiu => mem_inputsOf.mpr ?_⟩
    rw [List.get_eq_getElem, List.get_eq_getElem, hforced]
    split
    next hj => rw [← hflush i (of_decide_eq_true hj), List.getD_eq_getElem _ _ hiu]
    next => exact hlt _ (List.getElem_mem hiu)

end

/-! ## The decoded sequence -/

/-- The input sequence that a decode finds in its payload (R234). -/
def State.decoded (s : State) (k : Nat) (out : List (List (BitVec 4))) (pay : List Word) : List Nat :=
  traceBest (2 ^ k) out
    (trellisSteps s.cfg.trellisSteps s.cfg.trellisFlush (receivedSymbols s.cfg.trellisSteps pay)) 0 s.draws

section
variable (s : State) (k : Nat) (out : List (List (BitVec 4))) (pay : List Word)

/-- The decoded sequence is admissible (R232, R234). -/
theorem decoded_admissible : Admissible (2 ^ k) s.cfg.trellisSteps s.cfg.trellisFlush (s.decoded k out pay) :=
  (path_trellisSteps_iff (Nat.two_pow_pos k) (receivedSymbols_length _ _)).mp
    (traceBest_isPath_and_cost (Nat.two_pow_pos k) (Nat.two_pow_pos k) _).1

/-- NEW is the decoded sequence's cost (R234). -/
theorem blockCost_decoded :
    blockCost out (receivedSymbols s.cfg.trellisSteps pay) (s.decoded k out pay) =
      (costTable (2 ^ k) out (trellisSteps s.cfg.trellisSteps s.cfg.trellisFlush
        (receivedSymbols s.cfg.trellisSteps pay))).getD 0 0 := by
  rw [← (traceBest_isPath_and_cost (Nat.two_pow_pos k) (Nat.two_pow_pos k) s.draws).2, pathCost, trellisSteps_map_fst]
  rfl

/-- No admissible sequence costs less (R234). -/
theorem blockCost_decoded_le {vs : List Nat} (hvs : Admissible (2 ^ k) s.cfg.trellisSteps s.cfg.trellisFlush vs) :
    blockCost out (receivedSymbols s.cfg.trellisSteps pay) (s.decoded k out pay) ≤
      blockCost out (receivedSymbols s.cfg.trellisSteps pay) vs := by
  have hpath := (path_trellisSteps_iff (Nat.two_pow_pos k) (receivedSymbols_length s.cfg.trellisSteps pay)).mpr hvs
  have hle := costTable_le_pathCost (out := out) (Nat.two_pow_pos k) (Nat.two_pow_pos k) hpath
  rwa [← blockCost_decoded, pathCost, trellisSteps_map_fst] at hle

end

end Sys2Proof.Machine
end

section
/-! PROOFS. FEC.DEC12 and FEC.DEC34 (45_fec.md R230 to R238): what they report of the decoded sequence, that an encoded block
decodes to its own input, and that PRIOR is added to the total. -/

namespace Sys2Proof.Machine

/-! ## FEC_RESULT -/

/-- The state after a decode that found the inputs `us` at cost `cost`, reported under the head word `head` (R233, R234). -/
def State.afterDecode (s : State) (head : Word) (k : Nat) (prior : BitVec 16) (cost : Nat) (us : List Nat) : State :=
  { s with
    evq := s.evq ++ [head, BitVec.ofNat 32 (2 + (k * (s.cfg.trellisSteps - s.cfg.trellisFlush) + 31) / 32),
      BitVec.ofNat 32 (prior.toNat + cost), BitVec.ofNat 32 cost] ++
      packBits ((us.take (s.cfg.trellisSteps - s.cfg.trellisFlush)).flatMap (inputBits k))
    cnt := { s.cnt with
      fecBlocks := s.cnt.fecBlocks + 1
      corrected := s.cnt.corrected + BitVec.ofNat 32 cost }
    draws := s.draws + s.cfg.trellisSteps }

/-- The bits of `m` inputs fill `ceil(k * m / 32)` words (R233). -/
theorem packedInputs_length {k m : Nat} {us : List Nat} (h : m ≤ us.length) :
    (packBits ((us.take m).flatMap (inputBits k))).length = (k * m + 31) / 32 := by
  have hbits : ((us.take m).flatMap (inputBits k)).length = k * m := by
    simp [List.length_flatMap, inputBits, Nat.mul_comm, h]
  rw [packBits_length, hbits, ceilDiv, Nat.add_sub_assoc (by decide)]

/-- A decode reports its decoded sequence and that sequence's cost. -/
theorem trellisDecode_eq_afterDecode (s : State) (h : Word) (rate : Bool) (k : Nat) (out : List (List (BitVec 4)))
    (prior : BitVec 16) (pay : List Word) :
    s.trellisDecode h rate k out prior pay =
      s.afterDecode (EventType.fecResult.code ++ h.extractLsb' 24 8 ++ (BitVec.ofBool rate).setWidth 16) k prior
        (blockCost out (receivedSymbols s.cfg.trellisSteps pay) (s.decoded k out pay)) (s.decoded k out pay) := by
  obtain ⟨hlen, -, -⟩ := decoded_admissible s k out pay
  have hwords : (packBits (((s.decoded k out pay).take (s.cfg.trellisSteps - s.cfg.trellisFlush)).flatMap
      (inputBits k))).length = (k * (s.cfg.trellisSteps - s.cfg.trellisFlush) + 31) / 32 :=
    packedInputs_length (by omega)
  rw [trellisDecode_eq, State.afterDecode, ← hwords, blockCost_decoded, List.append_assoc]
  simp only [eventWords, List.length_append]
  rfl

section
variable {s : State} {prior : BitVec 16} {pay : List Word}

/-- FEC.DEC12 of the right length (R234). -/
theorem exec_fecDec12 (hpay : pay.length = (s.cfg.trellisSteps + 7) / 8) :
    exec (.fecDec12 prior pay) s = .next (s.afterDecode 0x07500000 2 prior
      (blockCost s.cfg.out12 (receivedSymbols s.cfg.trellisSteps pay) (s.decoded 2 s.cfg.out12 pay))
      (s.decoded 2 s.cfg.out12 pay)) := by
  have hsrc : (Instr.fecDec12 prior pay).header.extractLsb' 24 8 = 0x50 := Laws.OpcodeByte.fecDec12 prior pay
  have hrun : execFecDec12 prior pay s = _ := runCommand_of_lengthOk (decide_eq_true hpay)
  rw [trellisDecode_eq_afterDecode, hsrc] at hrun
  exact hrun

/-- FEC.DEC34 of the right length (R235). -/
theorem exec_fecDec34 (hpay : pay.length = (s.cfg.trellisSteps + 7) / 8) :
    exec (.fecDec34 prior pay) s = .next (s.afterDecode 0x07510001 3 prior
      (blockCost s.cfg.out34 (receivedSymbols s.cfg.trellisSteps pay) (s.decoded 3 s.cfg.out34 pay))
      (s.decoded 3 s.cfg.out34 pay)) := by
  have hsrc : (Instr.fecDec34 prior pay).header.extractLsb' 24 8 = 0x51 := Laws.OpcodeByte.fecDec34 prior pay
  have hrun : execFecDec34 prior pay s = _ := runCommand_of_lengthOk (decide_eq_true hpay)
  rw [trellisDecode_eq_afterDecode, hsrc] at hrun
  exact hrun

end

/-- Settles O44: the minimiser is the decoded sequence. -/
theorem fecDecodeIsMaximumLikelihood : Obligations.FecDecodeIsMaximumLikelihood := by
  intro s prior pay steps flush rs _ hpay
  exact ⟨⟨_, _, decoded_admissible s 2 _ pay, fun _ => blockCost_decoded_le s 2 _ pay, exec_fecDec12 hpay, rfl⟩,
    ⟨_, _, decoded_admissible s 3 _ pay, fun _ => blockCost_decoded_le s 3 _ pay, exec_fecDec34 hpay, rfl⟩⟩

/-! ## Round trip -/

/-- A legal table has distinct symbols for distinct inputs in each state (00_scope.md R6). -/
theorem outSymbol_injective {n s u v : Nat} {out : List (List (BitVec 4))} (hlegal : tableLegal n out = true)
    (hs : s < n) (hu : u < n) (hv : v < n) (h : outSymbol out s u = outSymbol out s v) : u = v := by
  simp only [tableLegal, Bool.and_eq_true, decide_eq_true_iff, List.all_eq_true] at hlegal
  obtain ⟨hout, hrows⟩ := hlegal
  obtain ⟨hrow, hnodup⟩ := hrows out[s] (List.getElem_mem (by omega))
  rw [outSymbol, outSymbol, List.getD_eq_getElem out _ (by omega), List.getD_eq_getElem out[s] _ (by omega),
    List.getD_eq_getElem out[s] _ (by omega)] at h
  exact (hnodup.getElem_inj_iff).mp h

/-- Under a legal table the encoder loses nothing (R232). -/
theorem encodeFrom_injective {n s : Nat} {out : List (List (BitVec 4))} (hlegal : tableLegal n out = true)
    (hs : s < n) {us vs : List Nat} (hus : ∀ u ∈ us, u < n) (hvs : ∀ v ∈ vs, v < n)
    (h : encodeFrom out s us = encodeFrom out s vs) : us = vs := by
  induction us generalizing s vs with
  | nil =>
    have hlen := congrArg List.length h
    rw [encodeFrom_length, encodeFrom_length] at hlen
    exact (List.eq_nil_of_length_eq_zero hlen.symm).symm
  | cons u us ih =>
    cases vs with
    | nil => cases h
    | cons v vs =>
      obtain ⟨hu, huslt⟩ := List.forall_mem_cons.mp hus
      obtain ⟨hv, hvslt⟩ := List.forall_mem_cons.mp hvs
      obtain ⟨hhead, htail⟩ := List.cons.inj h
      obtain rfl := outSymbol_injective hlegal hs hu hv hhead
      rw [ih hu huslt hvslt htail]

theorem symbolDibits_append (c : BitVec 4) : c.extractLsb' 2 2 ++ c.extractLsb' 0 2 = c := by
  revert c; decide

/-- The dibits of symbol `j` stand at `2j` and `2j + 1` (R231). -/
theorem flatMap_symbolDibits_getD (cs : List (BitVec 4)) {j : Nat} (hj : j < cs.length) :
    (cs.flatMap symbolDibits).getD (2 * j) 0 ++ (cs.flatMap symbolDibits).getD (2 * j + 1) 0 = cs[j] := by
  induction cs generalizing j with
  | nil => simp at hj
  | cons c cs ih =>
    cases j with
    | zero => exact symbolDibits_append c
    | succ j => exact ih (Nat.lt_of_succ_lt_succ hj)

section
variable {out : List (List (BitVec 4))} {us : List Nat}

/-- The received symbols of a coded block are the encoder's (R231). -/
theorem receivedSymbols_codedBlock : receivedSymbols us.length (codedBlock out us) = encodeFrom out 0 us := by
  refine List.ext_getElem (by simp) fun j _ hj => ?_
  simp only [receivedSymbols, List.getElem_map, List.getElem_range, codedBlock, dibitAt_packDibits]
  exact flatMap_symbolDibits_getD _ hj

/-- A coded block is as long as its command requires (R231). -/
theorem codedBlock_length {n : Nat} (hus : us.length = n) : (codedBlock out us).length = (n + 7) / 8 := by
  have hdibits : ((encodeFrom out 0 us).flatMap symbolDibits).length = 2 * us.length := by
    simp [List.length_flatMap, symbolDibits, Nat.mul_comm]
  rw [codedBlock, packDibits_length, hdibits, hus]
  omega

/-- An encoded block decodes to its own input at cost 0, for that input costs nothing and no other does (R237). -/
theorem decoded_codedBlock {s : State} {k : Nat} (hlegal : tableLegal (2 ^ k) out = true)
    (hus : Admissible (2 ^ k) s.cfg.trellisSteps s.cfg.trellisFlush us) :
    s.decoded k out (codedBlock out us) = us ∧
      blockCost out (receivedSymbols s.cfg.trellisSteps (codedBlock out us)) us = 0 := by
  have ⟨huslen, huslt, _⟩ := hus
  have hrs : receivedSymbols s.cfg.trellisSteps (codedBlock out us) = encodeFrom out 0 us := by
    rw [← huslen, receivedSymbols_codedBlock]
  have hzero : blockCost out (encodeFrom out 0 us) us = 0 := (symbolCost_eq_zero_iff rfl).mpr rfl
  obtain ⟨hlen, hlt, -⟩ := decoded_admissible s k out (codedBlock out us)
  have hleast := blockCost_decoded_le s k out (codedBlock out us) hus
  rw [hrs, hzero, Nat.le_zero, blockCost, symbolCost_eq_zero_iff (by simp [hlen, huslen])] at hleast
  exact ⟨(encodeFrom_injective hlegal (Nat.two_pow_pos k) huslt hlt hleast).symm, hrs ▸ hzero⟩

end

/-- The trellis part of a legal configuration (00_scope.md R6). -/
theorem trellisLegal_of_legal {c : Config} (h : c.legal = true) :
    c.trellisSteps ≤ 255 ∧ tableLegal 4 c.out12 = true ∧ tableLegal 8 c.out34 = true := by
  simp only [Config.legal, Config.trellisLegal, Bool.and_eq_true, decide_eq_true_iff] at h
  obtain ⟨⟨-, ⟨⟨⟨-, hsteps⟩, -⟩, h12⟩, h34⟩, -⟩ := h
  exact ⟨hsteps, h12, h34⟩

/-- Settles O45: the decoded sequence is the encoded one. -/
theorem fecRoundTrip : Obligations.FecRoundTrip := by
  intro s us hlegal steps flush
  obtain ⟨-, h12, h34⟩ := trellisLegal_of_legal hlegal
  constructor
  · intro hus
    obtain ⟨hdec, hcost⟩ := decoded_codedBlock (k := 2) h12 hus
    have hexec := exec_fecDec12 (s := s) (prior := 0) (codedBlock_length (out := s.cfg.out12) hus.1)
    rw [hdec, hcost] at hexec
    exact ⟨_, hexec, rfl⟩
  · intro hus
    obtain ⟨hdec, hcost⟩ := decoded_codedBlock (k := 3) h34 hus
    have hexec := exec_fecDec34 (s := s) (prior := 0) (codedBlock_length (out := s.cfg.out34) hus.1)
    rw [hdec, hcost] at hexec
    exact ⟨_, hexec, rfl⟩

/-! ## Carry-forward -/

/-- Under a legal configuration the total fits in its word, so PRIOR is added as an integer (R238). -/
theorem total_toNat {c : Config} (hlegal : c.legal = true) (out : List (List (BitVec 4))) (pay : List Word)
    (us : List Nat) (prior : BitVec 16) :
    (BitVec.ofNat 32 (prior.toNat + blockCost out (receivedSymbols c.trellisSteps pay) us)).toNat =
      prior.toNat +
        (BitVec.ofNat 32 ((0 : BitVec 16).toNat + blockCost out (receivedSymbols c.trellisSteps pay) us)).toNat := by
  obtain ⟨hsteps, -, -⟩ := trellisLegal_of_legal hlegal
  have hcost : blockCost out (receivedSymbols c.trellisSteps pay) us ≤ 4 * c.trellisSteps := by
    simpa [blockCost] using symbolCost_le (receivedSymbols c.trellisSteps pay) (encodeFrom out 0 us)
  have hprior := prior.isLt
  simp only [BitVec.toNat_ofNat, BitVec.ofNat_eq_ofNat, Nat.zero_mod]
  omega

/-- Settles O46: the two decodes find one sequence, and the total cannot wrap. -/
theorem fecCarryForward : Obligations.FecCarryForward := by
  intro s prior pay hlegal hpay
  exact ⟨⟨_, _, _, _, _, _, _, exec_fecDec12 hpay, exec_fecDec12 hpay, rfl, rfl, total_toNat hlegal _ _ _ _⟩,
    ⟨_, _, _, _, _, _, _, exec_fecDec34 hpay, exec_fecDec34 hpay, rfl, rfl, total_toNat hlegal _ _ _ _⟩⟩

end Sys2Proof.Machine
end

section
/-! PROOFS. The header CRC (45_fec.md R240 to R245): the verdicts of CRC.HDR, and the syndrome as a linear function of the
flipped bits. -/

namespace Sys2Proof.Machine

/-! ## What CRC.HDR answers -/

/-- The CRC_RESULT event of a verdict (30_encoding.md R105). -/
theorem eventWords_crcResult (pay : List Word) (info : BitVec 16) (m : Header) :
    eventWords .crcResult (Instr.crcHdr pay).header info (headerWords m) = [0x0852#16 ++ info, 3] ++ headerWords m := by
  have hsrc : (Instr.crcHdr pay).header.extractLsb' 24 8 = 0x52 := Laws.OpcodeByte.crcHdr pay
  rw [eventWords, hsrc]
  rfl

/-- CRC.HDR on a whole header: the event of its verdict, and the counters (R244). -/
theorem exec_crcHdr (s : State) (m : Header) :
    exec (.crcHdr (headerWords m)) s = .next { s with
      evq := s.evq ++ ([0x0852#16 ++ (checkHeader s.cfg m).info, 3] ++ headerWords (checkHeader s.cfg m).header)
      cnt := s.cnt.countCrc (checkHeader s.cfg m) } := by
  have hrun : execCrcHdr (headerWords m) s = _ := runCommand_of_lengthOk rfl
  rw [headerOfWords_headerWords] at hrun
  rw [← eventWords_crcResult (headerWords m)]
  exact hrun

/-- A single flipped bit `p` explains the syndrome `z` (R244). -/
abbrev Explains (c : Config) (z : BitVec 16) (p : Nat) : Prop := p < 96 ∧ singleSyndrome c p = z

section
variable {c : Config} {m : Header}

theorem mem_syndromePositions {z : BitVec 16} {p : Nat} : p ∈ syndromePositions c z ↔ Explains c z p := by
  simp [syndromePositions]

/-- The list of positions is `[p]` exactly where `p` alone explains the syndrome. -/
theorem syndromePositions_eq_singleton_iff {z : BitVec 16} {p : Nat} :
    syndromePositions c z = [p] ↔ Explains c z p ∧ ∀ q, Explains c z q → q = p := by
  have hnodup : (syndromePositions c z).Nodup := List.nodup_range.filter _
  simp only [← mem_syndromePositions]
  constructor
  · intro h
    simp [h]
  · rintro ⟨hp, honly⟩
    exact List.perm_singleton.mp ((List.perm_ext_iff_of_nodup hnodup (List.nodup_singleton p)).mpr fun q =>
      ⟨fun hq => List.mem_singleton.mpr (honly q hq), fun hq => List.mem_singleton.mp hq ▸ hp⟩)

/-- A consistent header is valid as it is (R244). -/
theorem checkHeader_of_consistent (hz : syndrome c m = 0) :
    checkHeader c m = { header := m, valid := true, corr := false, pos := 0 } := if_pos hz

/-- A syndrome that one position alone explains is corrected there (R244). -/
theorem checkHeader_of_unique {p : Nat} (hz : syndrome c m ≠ 0) (hp : Explains c (syndrome c m) p)
    (honly : ∀ q, Explains c (syndrome c m) q → q = p) :
    checkHeader c m = { header := flipBit m p, valid := true, corr := true, pos := p } := by
  rw [checkHeader, if_neg hz, syndromePositions_eq_singleton_iff.mpr ⟨hp, honly⟩]

/-- Any other syndrome leaves the header invalid and unchanged (R244). -/
theorem checkHeader_of_not_unique (hz : syndrome c m ≠ 0)
    (hnone : ¬ ∃ p, Explains c (syndrome c m) p ∧ ∀ q, Explains c (syndrome c m) q → q = p) :
    checkHeader c m = { header := m, valid := false, corr := false, pos := 0 } := by
  rw [checkHeader, if_neg hz]
  split
  next p hp => exact absurd ⟨p, syndromePositions_eq_singleton_iff.mp hp⟩ hnone
  next => rfl

end

/-- The head word of a CRC_RESULT, field by field (R105). -/
theorem crcResult_head (m : Header) (valid corr : Bool) (p : Nat) :
    0x0852#16 ++ CrcVerdict.info { header := m, valid := valid, corr := corr, pos := p } =
      0x0852#16 ++ 0#1 ++ BitVec.ofNat 7 p ++ (0#6 ++ BitVec.ofBool corr ++ BitVec.ofBool valid : BitVec 8) :=
  BitVec.eq_of_toNat_eq (by simp only [CrcVerdict.info, toNat_append_eq]; omega)

section
variable {s : State} {m : Header}

theorem exec_crcHdr_of_consistent (hz : syndrome s.cfg m = 0) :
    exec (.crcHdr (headerWords m)) s = .next { s with
      evq := s.evq ++ [0x08520001, 3] ++ headerWords m, cnt := { s.cnt with crcOk := s.cnt.crcOk + 1 } } := by
  rw [exec_crcHdr, checkHeader_of_consistent hz, crcResult_head, ← List.append_assoc]
  rfl

theorem exec_crcHdr_of_unique {p : Nat} (hz : syndrome s.cfg m ≠ 0) (hp : Explains s.cfg (syndrome s.cfg m) p)
    (honly : ∀ q, Explains s.cfg (syndrome s.cfg m) q → q = p) :
    exec (.crcHdr (headerWords m)) s = .next { s with
      evq := s.evq ++ [0x0852#16 ++ 0#1 ++ BitVec.ofNat 7 p ++ 0x03#8, 3] ++ headerWords (flipBit m p)
      cnt := { s.cnt with crcOk := s.cnt.crcOk + 1, corrected := s.cnt.corrected + 1 } } := by
  rw [exec_crcHdr, checkHeader_of_unique hz hp honly, crcResult_head, ← List.append_assoc]
  rfl

theorem exec_crcHdr_of_not_unique (hz : syndrome s.cfg m ≠ 0)
    (hnone : ¬ ∃ p, Explains s.cfg (syndrome s.cfg m) p ∧ ∀ q, Explains s.cfg (syndrome s.cfg m) q → q = p) :
    exec (.crcHdr (headerWords m)) s = .next { s with
      evq := s.evq ++ [0x08520000, 3] ++ headerWords m, cnt := { s.cnt with crcFail := s.cnt.crcFail + 1 } } := by
  rw [exec_crcHdr, checkHeader_of_not_unique hz hnone, crcResult_head, ← List.append_assoc]
  rfl

end

/-- Settles O47: by the positions that explain the syndrome. -/
theorem crcHdrVerdict : Obligations.CrcHdrVerdict := fun _ _ =>
  ⟨exec_crcHdr_of_consistent, fun _ => exec_crcHdr_of_unique, exec_crcHdr_of_not_unique⟩

/-! ## The register is linear -/

/-- A shift adds the polynomial where the register's top bit and the message bit differ (R240). -/
theorem crcShift_eq (poly r : BitVec 16) (b : Bool) :
    crcShift poly r b = r <<< 1 ^^^ if r.msb ^^ b then poly else 0 := by
  unfold crcShift
  cases r.msb <;> cases b <;> simp

/-- A shift of two registers' sum is the sum of the shifts. -/
theorem crcShift_xor (poly r q : BitVec 16) (a b : Bool) :
    crcShift poly (r ^^^ q) (a ^^ b) = crcShift poly r a ^^^ crcShift poly q b := by
  have hadd : ∀ x y : Bool,
      (if x ^^ y then poly else 0) = (if x then poly else 0) ^^^ (if y then poly else 0) := by
    intro x y
    cases x <;> cases y <;> simp
  have hbits : ((r ^^^ q).msb ^^ (a ^^ b)) = ((r.msb ^^ a) ^^ (q.msb ^^ b)) := by
    simp only [BitVec.msb_xor, Bool.xor_assoc, Bool.xor_left_comm]
  rw [crcShift_eq, crcShift_eq, crcShift_eq, hbits, hadd, BitVec.shiftLeft_xor_distrib]
  ac_rfl

/-- The register over the sum of two messages is the sum of the registers. -/
theorem crcRegister_xor (poly : BitVec 16) {js : List Nat} (f g : Nat → Bool) (r q : BitVec 16) :
    crcRegister poly (r ^^^ q) (js.map fun j => f j ^^ g j) =
      crcRegister poly r (js.map f) ^^^ crcRegister poly q (js.map g) := by
  induction js generalizing r q with
  | nil => rfl
  | cons j js ih => simpa only [List.map_cons, crcRegister, List.foldl_cons, crcShift_xor] using ih _ _

/-- Zero bits leave the zero register. -/
theorem crcRegister_zero (poly : BitVec 16) (js : List Nat) : crcRegister poly 0 (js.map fun _ => false) = 0 := by
  have hshift : crcShift poly 0 false = 0 := rfl
  induction js with
  | nil => rfl
  | cons j js ih => rwa [List.map_cons, crcRegister, List.foldl_cons, hshift]

/-! ## Flipped bits -/

section
variable {m : Header} {p : Nat}

/-- Message bit `j` of a header with bit `p` flipped. -/
theorem getMsbD_flipBit (hp : p < 96) {j : Nat} (hj : j < 96) :
    (flipBit m p).getMsbD j = (m.getMsbD j ^^ decide (j = p)) := by
  have hbit : (1#96 <<< (95 - p)).getMsbD j = decide (j = p) := by
    simp only [BitVec.getMsbD_eq_getLsbD, BitVec.getLsbD_shiftLeft, BitVec.getLsbD_one]
    grind
  rw [flipBit, BitVec.getMsbD_xor, hbit]

theorem headerBits80_flipBit (hp : p < 96) :
    headerBits80 (flipBit m p) = (List.range 80).map fun j => m.getMsbD j ^^ decide (j = p) :=
  List.map_congr_left fun j hj => getMsbD_flipBit hp (by have := List.mem_range.mp hj; omega)

/-- A flipped bit changes the CRC field only in bits 80 to 95. -/
theorem headerCrc_flipBit (hp : p < 96) :
    headerCrc (flipBit m p) = headerCrc m ^^^ if p < 80 then 0 else 1#16 <<< (95 - p) := by
  have hfield : (1#96 <<< (95 - p)).extractLsb' 0 16 = if p < 80 then 0 else 1#16 <<< (95 - p) := by
    refine BitVec.eq_of_getLsbD_eq fun i hi => ?_
    simp only [BitVec.getLsbD_extractLsb', BitVec.getLsbD_shiftLeft, BitVec.getLsbD_one]
    split
    · have hshifted : i < 95 - p := by omega
      simp [hshifted]
    · simp [hi, Nat.lt_trans hi (by decide : 16 < 96)]
  rw [headerCrc, flipBit, BitVec.extractLsb'_xor, hfield]
  rfl

/-- A position past the first 80 bits is not in the CRC's message. -/
theorem crcRegister_unitMessage_of_le (poly : BitVec 16) (hp : 80 ≤ p) : crcRegister poly 0 (unitMessage p) = 0 := by
  have hzero : unitMessage p = (List.range 80).map fun _ => false :=
    List.map_congr_left fun j hj => decide_eq_false (by have := List.mem_range.mp hj; omega)
  rw [hzero, crcRegister_zero]

/-- A flipped bit adds its own register to the CRC of the first 80 bits. -/
theorem crc16_flipBit (c : Config) (m : Header) (hp : p < 96) :
    crc16 c (flipBit m p) = crc16 c m ^^^ crcRegister c.crcPoly 0 (unitMessage p) := by
  have hlin := crcRegister_xor c.crcPoly (js := List.range 80) m.getMsbD (fun j => decide (j = p)) c.crcInit 0
  simp only [BitVec.ofNat_eq_ofNat, BitVec.xor_zero] at hlin
  rw [crc16, headerBits80_flipBit hp, hlin, crc16, headerBits80, unitMessage]
  ac_rfl

/-- A flipped bit adds its own syndrome (R241). -/
theorem syndrome_flipBit (c : Config) (m : Header) (hp : p < 96) :
    syndrome c (flipBit m p) = syndrome c m ^^^ singleSyndrome c p := by
  rw [syndrome, crc16_flipBit c m hp, headerCrc_flipBit hp, singleSyndrome, syndrome]
  split
  · rw [BitVec.ofNat_eq_ofNat, BitVec.xor_zero]
    ac_rfl
  · rw [crcRegister_unitMessage_of_le _ (by omega), BitVec.ofNat_eq_ofNat, BitVec.xor_zero]
    ac_rfl

@[simp] theorem flipBit_flipBit (m : Header) (p : Nat) : flipBit (flipBit m p) p = m := by
  simp [flipBit]

end

/-! ## Single errors -/

/-- Distinct syndromes tell positions apart. -/
theorem singleSyndrome_injective {c : Config} (h : ((List.range 96).map (singleSyndrome c)).Nodup) {p q : Nat}
    (hp : p < 96) (hq : q < 96) (heq : singleSyndrome c p = singleSyndrome c q) : p = q :=
  List.inj_on_of_nodup_map h (List.mem_range.mpr hp) (List.mem_range.mpr hq) heq

theorem singleSyndrome_refcfg_nodup : ((List.range 96).map (singleSyndrome Config.refcfg)).Nodup := by decide +kernel

theorem singleSyndrome_refcfg_ne_zero : ∀ p, p < 96 → singleSyndrome Config.refcfg p ≠ 0 := by decide +kernel

/-- Settles O48: the syndrome of a consistent header with bit `p` flipped is that of `p`, which `p` alone has. -/
theorem crcCorrectsSingleBit : Obligations.CrcCorrectsSingleBit := by
  refine ⟨⟨singleSyndrome_refcfg_nodup, singleSyndrome_refcfg_ne_zero⟩, fun s m p hnodup hne hm hp => ?_⟩
  have hz : syndrome s.cfg (flipBit m p) = singleSyndrome s.cfg p := by
    rw [syndrome_flipBit s.cfg m hp, hm]
    exact BitVec.zero_xor
  have hflipped := exec_crcHdr_of_unique (hz ▸ hne p hp) ⟨hp, hz.symm⟩
    fun q ⟨hq, hzq⟩ => singleSyndrome_injective hnodup hq hp (hzq.trans hz)
  rw [flipBit_flipBit] at hflipped
  exact ⟨⟨_, hflipped, rfl⟩, ⟨_, exec_crcHdr_of_consistent hm, rfl⟩⟩

/-! ## Double errors -/

/-- The parity of a register's bits. -/
def parity (v : BitVec 16) : Bool := (List.range 16).foldr (fun i b => v.getLsbD i ^^ b) false

theorem parity_xor (v w : BitVec 16) : parity (v ^^^ w) = (parity v ^^ parity w) := by
  unfold parity
  induction List.range 16 with
  | nil => rfl
  | cons i is ih =>
    rw [List.foldr_cons, ih, BitVec.getLsbD_xor]
    simp only [List.foldr_cons, Bool.xor_assoc, Bool.xor_left_comm]

/-- The syndrome of a single bit depends on CRC16_POLY only. -/
theorem singleSyndrome_congr {c d : Config} (h : c.crcPoly = d.crcPoly) : singleSyndrome c = singleSyndrome d := by
  unfold singleSyndrome
  rw [h]

/-- 0x1021 has the factor x + 1, so every single-bit syndrome under it has odd parity. -/
theorem parity_singleSyndrome_refcfg : ∀ p, p < 96 → parity (singleSyndrome Config.refcfg p) = true := by
  decide +kernel

/-- Settles O49: two single-bit syndromes differ, and their sum, of even parity, is no single-bit syndrome. -/
theorem doubleErrorsNeverMiscorrected : Obligations.DoubleErrorsNeverMiscorrected := by
  intro s m p q hpoly _ _ hm hpq hq
  have hp : p < 96 := hpq.trans hq
  have hsyn : singleSyndrome s.cfg = singleSyndrome Config.refcfg := singleSyndrome_congr hpoly
  have hz : syndrome s.cfg (flipBit (flipBit m p) q) =
      singleSyndrome Config.refcfg p ^^^ singleSyndrome Config.refcfg q := by
    rw [syndrome_flipBit _ _ hq, syndrome_flipBit _ _ hp, hm, hsyn]
    exact congrArg (· ^^^ _) BitVec.zero_xor
  refine exec_crcHdr_of_not_unique (fun h0 => ?nonzero) fun ⟨r, ⟨hr, hzr⟩, _⟩ => ?unexplained
  case nonzero =>
    exact hpq.ne (singleSyndrome_injective singleSyndrome_refcfg_nodup hp hq (BitVec.xor_eq_zero_iff.mp (hz ▸ h0)))
  case unexplained =>
    have hodd := parity_singleSyndrome_refcfg r hr
    rw [← hsyn, hzr, hz, parity_xor, parity_singleSyndrome_refcfg p hp, parity_singleSyndrome_refcfg q hq] at hodd
    cases hodd

end Sys2Proof.Machine
end

section
/-! PROOFS. The packet sequencer (46_packet_sequencer.md): its bound under every step, and PS.START, PS.QUERY and PS.ADD
outcome by outcome. -/

namespace Sys2Proof.Machine

/-! ## The bound under every step -/

theorem receive_ps (s : State) : s.receive.ps = s.ps := by
  unfold State.receive
  split <;> rfl

/-- What a step leaves of a sound sequencer is sound, by what a step can do. -/
theorem step_keeps_psOk {s t : State} (hok : s.ps.Ok) (hstep : step s = .next t) : t.ps.Ok := by
  cases step_cases hstep with
  | receive rest => rw [receive_ps]; exact hok
  | hold => exact hok
  | perform rest hca hrun hroom =>
    obtain ⟨i, heff⟩ := runWords_effect hrun
    exact heff.ps.ok hok
  | host rest a => rw [(hostStep_frame (s.after rest) a).ps]; exact hok
  | powerOn => exact Sequencer.reset_ok

/-- Settles O53: the power-on sequencer is sound, and every step keeps it so. -/
theorem sequencerBound : Obligations.SequencerBound :=
  ⟨fun _ ⟨hrecv, hdecl, hcount, _⟩ => ⟨hrecv, hdecl, hcount⟩, fun _ => Sequencer.reset_ok,
    fun _ _ => step_keeps_psOk⟩

/-! ## The PACKET event -/

/-- `emit_packet()` by the command with opcode byte `b`: one PACKET, counted (30_encoding.md R105). -/
theorem emitPacket_of_source {h : Word} {b : BitVec 8} (hsrc : h.extractLsb' 24 8 = b) (s : State) :
    s.emitPacket h = { s with
      evq := s.evq ++ [0x09#8 ++ b ++ BitVec.ofNat 16 s.ps.decl, BitVec.ofNat 32 s.ps.packetPayload.length] ++
        s.ps.packetPayload
      cnt := { s.cnt with packets := s.cnt.packets + 1 } } := by
  rw [emitPacket_eq, eventWords, hsrc, List.append_assoc]
  rfl

/-! ## PS.START -/

theorem Sequencer.unfinished_iff (q : Sequencer) :
    q.unfinished = true ↔ q.state = .headerReceived ∨ q.state = .accumulating := by
  simp [Sequencer.unfinished]

/-- The state after PS.START's report of an unfinished sequence (R261). -/
def State.abandon (s : State) (h : Word) : State :=
  if s.ps.state = .headerReceived ∨ s.ps.state = .accumulating then s.takeError .psAbandoned h else s

theorem abandon_packets (s : State) (h : Word) : (s.abandon h).cnt.packets = s.cnt.packets := by
  unfold State.abandon
  split <;> rfl

theorem exec_psStart (s : State) (herr : BitVec 8) (m : Header) :
    exec (.psStart herr (headerWords m)) s = .next (
      let u := (s.abandon (0x60#8 ++ 0#16 ++ herr)).setPs (Sequencer.start m herr)
      if headerBtf m = 0 then u.emitPacket (0x60#8 ++ 0#16 ++ herr) else u) := by
  refine (runCommand_of_lengthOk rfl : execPsStart herr (headerWords m) s = _).trans (congrArg _ ?_)
  simp only [Sequencer.unfinished_iff, headerOfWords_headerWords]
  rfl

section
variable {m : Header} {herr : BitVec 8}

/-- A header that declares blocks opens a sequence (R261). -/
theorem Sequencer.start_of_blocks (h : headerBtf m ≠ 0) : Sequencer.start m herr =
    { state := .headerReceived, hdr := m, herr := herr, decl := headerBtf m, recv := 0, blk := [] } := by
  rw [Sequencer.start, if_neg h]

/-- A header that declares no blocks is a complete sequence (R261). -/
theorem Sequencer.start_of_no_blocks (h : headerBtf m = 0) : Sequencer.start m herr =
    { state := .complete, hdr := m, herr := herr, decl := 0, recv := 0, blk := [] } := by
  rw [Sequencer.start, if_pos h, h]

theorem exec_psStart_of_blocks (s : State) (h : headerBtf m ≠ 0) :
    exec (.psStart herr (headerWords m)) s = .next { s.abandon (0x60#8 ++ 0#16 ++ herr) with
      ps := { state := .headerReceived, hdr := m, herr := herr, decl := headerBtf m, recv := 0, blk := [] } } := by
  rw [exec_psStart, if_neg h, Sequencer.start_of_blocks h]
  rfl

/-- The header and the two counts are the PACKET of a sequence of no blocks (R265 to R267). -/
theorem exec_psStart_of_no_blocks (s : State) (h : headerBtf m = 0) :
    exec (.psStart herr (headerWords m)) s = .next (
      let base := s.abandon (0x60#8 ++ 0#16 ++ herr)
      { base with
        ps := { state := .complete, hdr := m, herr := herr, decl := 0, recv := 0, blk := [] }
        evq := base.evq ++ [0x09600000, 5] ++ headerWords m ++ [0#24 ++ herr, 96]
        cnt := { base.cnt with packets := base.cnt.packets + 1 } }) := by
  have hherr : BitVec.ofNat 32 herr.toNat = 0#24 ++ herr :=
    (BitVec.ofNat_toNat 32 herr).trans (BitVec.setWidth_eq_append (by decide))
  have hpayload : Sequencer.packetPayload
      { state := .complete, hdr := m, herr := herr, decl := 0, recv := 0, blk := [] } =
        headerWords m ++ [0#24 ++ herr, 96] := by
    rw [← hherr]
    rfl
  have hsrc : (0x60#8 ++ 0#16 ++ herr).extractLsb' 24 8 = 0x60 := Laws.OpcodeByte.psStart herr []
  rw [exec_psStart, if_pos h, emitPacket_of_source hsrc, Sequencer.start_of_no_blocks h]
  simp only [State.setPs_ps, hpayload, ← List.append_assoc]
  rfl

end

/-! ## PS.QUERY -/

/-- The PS_INFO event (30_encoding.md R105). -/
theorem exec_psQuery (s : State) :
    exec (.psQuery []) s = .next { s with
      evq := s.evq ++ [0x0A62#16 ++ BitVec.ofNat 7 s.ps.recv ++ BitVec.ofNat 7 s.ps.decl ++ s.ps.state.code, 2,
        BitVec.ofNat 32 s.ps.bitErrors, BitVec.ofNat 32 s.ps.bitsProcessed] } := by
  have hstat : 0x0A62#16 ++ BitVec.ofNat 7 s.ps.recv ++ BitVec.ofNat 7 s.ps.decl ++ s.ps.state.code =
      0x0A62#16 ++ s.ps.stat :=
    BitVec.eq_of_toNat_eq (by simp only [Sequencer.stat, toNat_append_eq]; omega)
  have hsrc : (Instr.psQuery []).header.extractLsb' 24 8 = 0x62 := Laws.OpcodeByte.psQuery []
  refine (runCommand_of_lengthOk rfl : execPsQuery [] s = _).trans (congrArg _ ?_)
  rw [emit_eq, eventWords, hsrc, hstat]
  rfl

/-- Settles O50: the header declares blocks or none. -/
theorem psStartAndQuery : Obligations.PsStartAndQuery := fun s _ _ =>
  ⟨exec_psStart_of_blocks s, exec_psStart_of_no_blocks s, exec_psQuery s⟩

/-! ## PS.ADD -/

/-- The block that PS.ADD brings (R262). -/
def addedBlock (err oct : BitVec 8) (pay : List Word) : Block where
  err := err
  oct := oct
  data := unpackOctets oct.toNat pay

section
variable {s : State} {err oct : BitVec 8} {pay : List Word}

theorem lengthOk_psAdd (c : Config) (hlen : pay.length = (oct.toNat + 3) / 4) :
    (Instr.psAdd err oct pay).lengthOk c = true := decide_eq_true hlen

theorem exec_psAdd_of_idle (hlen : pay.length = (oct.toNat + 3) / 4) (h : s.ps.state = .idle) :
    exec (.psAdd err oct pay) s = .next (s.takeError .psNoHeader (0x61#8 ++ 0#8 ++ oct ++ err)) :=
  (runCommand_of_lengthOk (lengthOk_psAdd _ hlen) : execPsAdd err oct pay s = _).trans
    (congrArg _ (if_pos h))

theorem exec_psAdd_of_complete (hlen : pay.length = (oct.toNat + 3) / 4) (h : s.ps.state = .complete) :
    exec (.psAdd err oct pay) s = .next (s.takeError .psOverflow (0x61#8 ++ 0#8 ++ oct ++ err)) := by
  have hidle : s.ps.state ≠ .idle := by simp [h]
  exact (runCommand_of_lengthOk (lengthOk_psAdd _ hlen) : execPsAdd err oct pay s = _).trans
    (congrArg _ ((if_neg hidle).trans (if_pos h)))

/-- An unfinished sequence takes the block, and the one that reaches the declared count delivers the PACKET (R262). -/
theorem exec_psAdd_of_unfinished (hlen : pay.length = (oct.toNat + 3) / 4)
    (h : s.ps.state = .headerReceived ∨ s.ps.state = .accumulating) :
    exec (.psAdd err oct pay) s = .next (
      let u := s.setPs (s.ps.add (addedBlock err oct pay))
      if s.ps.recv + 1 = s.ps.decl then u.emitPacket (0x61#8 ++ 0#8 ++ oct ++ err) else u) := by
  obtain ⟨hidle, hcomplete⟩ : s.ps.state ≠ .idle ∧ s.ps.state ≠ .complete := by obtain h | h := h <;> simp [h]
  exact (runCommand_of_lengthOk (lengthOk_psAdd _ hlen) : execPsAdd err oct pay s = _).trans
    (congrArg _ ((if_neg hidle).trans (if_neg hcomplete)))

theorem exec_psAdd_of_not_last (hlen : pay.length = (oct.toNat + 3) / 4)
    (h : s.ps.state = .headerReceived ∨ s.ps.state = .accumulating) (hlast : s.ps.recv + 1 ≠ s.ps.decl) :
    exec (.psAdd err oct pay) s = .next { s with
      ps := { s.ps with
        state := .accumulating, recv := s.ps.recv + 1, blk := s.ps.blk ++ [addedBlock err oct pay] } } := by
  rw [exec_psAdd_of_unfinished hlen h, if_neg hlast, Sequencer.add, if_neg hlast]
  rfl

/-- The sequencer when the last declared block has come. -/
def Sequencer.completed (q : Sequencer) (b : Block) : Sequencer :=
  { q with state := .complete, recv := q.recv + 1, blk := q.blk ++ [b] }

theorem exec_psAdd_of_last (hlen : pay.length = (oct.toNat + 3) / 4)
    (h : s.ps.state = .headerReceived ∨ s.ps.state = .accumulating) (hlast : s.ps.recv + 1 = s.ps.decl) :
    exec (.psAdd err oct pay) s = .next (
      let q := s.ps.completed (addedBlock err oct pay)
      { s with
        ps := q
        evq := s.evq ++ [0x0961#16 ++ BitVec.ofNat 16 s.ps.decl, BitVec.ofNat 32 q.packetPayload.length] ++
          q.packetPayload
        cnt := { s.cnt with packets := s.cnt.packets + 1 } }) := by
  have hsrc : (0x61#8 ++ 0#8 ++ oct ++ err).extractLsb' 24 8 = 0x61 := Laws.OpcodeByte.psAdd err oct []
  rw [exec_psAdd_of_unfinished hlen h, if_pos hlast, emitPacket_of_source hsrc, Sequencer.add, if_pos hlast]
  rfl

end

/-- Settles O51, by PS_STATE and by whether the block is the last declared. -/
theorem psAddResult : Obligations.PsAddResult := fun _ _ _ _ hlen =>
  ⟨exec_psAdd_of_idle hlen, exec_psAdd_of_complete hlen, exec_psAdd_of_not_last hlen,
    fun h hlast => ⟨_, rfl, exec_psAdd_of_last hlen h hlast⟩⟩

/-! ## Completeness -/

section
variable {s t : State}

/-- What PS.START of a header that declares blocks leaves for the blocks to come. -/
theorem opened_of_exec_psStart {herr : BitVec 8} {m : Header} (hm : headerBtf m ≠ 0)
    (hexec : exec (.psStart herr (headerWords m)) s = .next t) :
    t.ps.state = .headerReceived ∧ t.ps.decl = headerBtf m ∧ t.ps.recv = 0 ∧ t.cnt.packets = s.cnt.packets := by
  rw [exec_psStart_of_blocks s hm] at hexec
  cases hexec
  exact ⟨rfl, rfl, rfl, abandon_packets s _⟩

variable {err oct : BitVec 8} {pay : List Word} (hlen : pay.length = (oct.toNat + 3) / 4)
  (hopen : s.ps.state = .headerReceived ∨ s.ps.state = .accumulating)
  (hexec : exec (.psAdd err oct pay) s = .next t)
include hlen hopen hexec

/-- A block short of the declared count is counted, and nothing is emitted. -/
theorem counted_of_exec_psAdd (hlast : s.ps.recv + 1 ≠ s.ps.decl) :
    t.ps.state = .accumulating ∧ t.ps.decl = s.ps.decl ∧ t.ps.recv = s.ps.recv + 1 ∧ t.evq = s.evq ∧
      t.cnt = s.cnt := by
  rw [exec_psAdd_of_not_last hlen hopen hlast] at hexec
  cases hexec
  exact ⟨rfl, rfl, rfl, rfl, rfl⟩

/-- The block that reaches the declared count emits one PACKET. -/
theorem completed_of_exec_psAdd (hlast : s.ps.recv + 1 = s.ps.decl) :
    t.ps.state = .complete ∧ t.cnt.packets = s.cnt.packets + 1 ∧
      ∃ words, t.evq = s.evq ++ (0x0961#16 ++ BitVec.ofNat 16 s.ps.decl) :: words := by
  rw [exec_psAdd_of_last hlen hopen hlast] at hexec
  cases hexec
  exact ⟨rfl, rfl, _, List.append_assoc _ _ _⟩

end

/-- Settles O52: three blocks are counted, the third of them emits the PACKET, and the fourth finds the
sequence complete. -/
theorem packetCompleteness : Obligations.PacketCompleteness := by
  intro s s0 s1 s2 s3 s4 herr e1 o1 e2 o2 e3 o3 e4 o4 m p1 p2 p3 p4 hbtf h0 l1 h1 l2 h2 l3 h3 l4 h4
  have hm : headerBtf m = 3 := hbtf
  obtain ⟨state0, decl0, recv0, packets0⟩ := opened_of_exec_psStart (by omega) h0
  obtain ⟨state1, decl1, recv1, evq1, cnt1⟩ := counted_of_exec_psAdd l1 (.inl state0) h1 (by omega)
  obtain ⟨state2, decl2, recv2, evq2, cnt2⟩ := counted_of_exec_psAdd l2 (.inr state1) h2 (by omega)
  obtain ⟨state3, packets3, words, evq3⟩ := completed_of_exec_psAdd l3 (.inr state2) h3 (by omega)
  rw [exec_psAdd_of_complete l4 state3] at h4
  cases h4
  have hdecl : s2.ps.decl = 3 := by omega
  have hevq : s2.evq = s0.evq := evq2.trans evq1
  have hpackets : s2.cnt.packets = s.cnt.packets := by rw [cnt2, cnt1, packets0]
  rw [hdecl, hevq] at evq3
  refine ⟨by simp [state0], by simp [state1], by simp [state2], state3, packets0, evq1, hevq, hpackets, ?_,
    ⟨words, evq3⟩, rfl, rfl⟩
  rw [packets3, hpackets]

end Sys2Proof.Machine
end

section
/-! PROOFS. What R286 and R288 of 60_exceptions.md say of a step: every turn has a next state, when the engine stands still,
and an erroneous access of the host. -/

namespace Sys2Proof.Machine

/-! ## Every step has a next state -/

theorem exists_engineStep (s : State) : ∃ t, s.engineStep = .next t := by
  cases hc : s.ca.isComplete with
  | true =>
    obtain ⟨h, p, pay, hca⟩ := (Assembly.isComplete_iff _).mp hc
    obtain ⟨u, hrun, -⟩ := runWords_withHost s h p pay s.agenda s.hostReads
    exact ⟨_, (engineStep_complete hca).trans (performWords_of_run hrun)⟩
  | false => exact ⟨_, engineStep_incomplete hc⟩

/-- No turn ends in a fault or a refusal. -/
theorem exists_step (s : State) : ∃ t, step s = .next t := by
  match hturn : s.agenda with
  | [] => rw [step_of_engine (.inr ⟨hturn, rfl⟩)]; exact exists_engineStep _
  | .engine :: rest => rw [step_of_engine (.inl hturn)]; exact exists_engineStep _
  | .powerOn :: rest => exact ⟨(s.after rest).powerOn, by simp only [step, State.takeTurn, hturn]⟩
  | .host a :: rest =>
    cases hheld : s.held a with
    | true =>
      obtain ⟨t, ht⟩ := exists_engineStep s
      exact ⟨t, (takeTurn_held hturn hheld).trans ht⟩
    | false => exact ⟨_, takeTurn_host hturn hheld⟩

/-! ## When the engine stands still -/

/-- A received word leaves CMDQ. -/
theorem receive_eq_self_iff (s : State) : s.receive = s ↔ s.cmdq = [] := by
  unfold State.receive
  split
  next hq => simp [hq]
  next w ws hq =>
    have hshorter : ws ≠ s.cmdq := by simp [hq]
    rw [hq]
    exact iff_of_false (fun h => hshorter (congrArg State.cmdq h)) nofun

/-- A performed command leaves CA. -/
theorem finish_ne_of_complete {s u : State} {h p : Word} {pay : List Word} (hca : s.ca = .body h p pay 0) :
    u.finish ≠ s := by
  rintro rfl
  cases hca

/-- Only HOLD and an empty queue stop the engine (10_state.md R20). -/
theorem engineStep_eq_self_iff (s : State) :
    s.engineStep = .next s ↔ s.hold = true ∨ (s.cmdq = [] ∧ s.ca.isComplete = false) := by
  cases hc : s.ca.isComplete with
  | true =>
    obtain ⟨h, p, pay, hca⟩ := (Assembly.isComplete_iff _).mp hc
    obtain ⟨u, hrun, -⟩ := runWords_withHost s h p pay s.agenda s.hostReads
    rw [engineStep_complete hca, performWords_of_run hrun, hold_of_run hca hrun]
    simp [State.overflows, finish_ne_of_complete hca]
  | false => simp [engineStep_incomplete hc, hold_of_incomplete hc, receive_eq_self_iff]

/-- Settles O7: every turn has a next state, and with no turn listed the engine moves. -/
theorem engineNeverHalts : Obligations.EngineNeverHalts := by
  refine ⟨exists_step, fun s hturn => ?_⟩
  rw [step, takeTurn_empty hturn]
  exact engineStep_eq_self_iff s

/-! ## Erroneous accesses -/

/-- The registers stand at the mapped offsets only (10_state.md R31, R48). -/
theorem mem_mappedOffsets_of_csrAt {off : BitVec 12} {r : Csr} (h : csrAt off = some r) :
    off.toNat ∈ mappedOffsets := by
  unfold csrAt at h
  split at h <;> cases h
  all_goals
    next hoff => rw [hoff]; decide

/-- Causes (a) and (b) of R286: the access reaches no register. -/
theorem accessed_eq_none {bytes : Nat} {off : BitVec 12}
    (h : bytes ≠ 4 ∨ off.toNat % 4 ≠ 0 ∨ off.toNat ∉ mappedOffsets) : accessed bytes off = none := by
  unfold accessed
  split
  next haligned =>
    obtain ⟨hbytes, halign⟩ := haligned
    have hunmapped : off.toNat ∉ mappedOffsets := (h.resolve_left (· hbytes)).resolve_left (· halign)
    exact Option.eq_none_iff_forall_ne_some.mpr fun r hr => hunmapped (mem_mappedOffsets_of_csrAt hr)
  · rfl

section
variable {s : State} {bytes : Nat} {off : BitVec 12} {rest : List Turn}

theorem step_read_of_unreached (hnone : accessed bytes off = none)
    (ha : s.agenda = .host (.read bytes off) :: rest) :
    step s = .next ((s.after rest).takeAccessError.returnWord 0) := by
  refine (takeTurn_host ha rfl).trans (congrArg _ ?_)
  simp only [State.hostStep, State.hostRead, hnone]

/-- A write that reaches no register is no push, so it is never held. -/
theorem step_write_of_unreached (hnone : accessed bytes off = none) {v : Word}
    (ha : s.agenda = .host (.write bytes off v) :: rest) : step s = .next (s.after rest).takeAccessError := by
  have hfree : s.held (.write bytes off v) = false := by simp [State.held, hnone]
  refine (takeTurn_host ha hfree).trans (congrArg _ ?_)
  simp only [State.hostStep, State.hostWrite, hnone]

/-- Cause (c) of R286: there is no event word to pop. -/
theorem step_pop_of_empty (hevq : s.evq = []) (ha : s.agenda = .host (.read 4 Csr.evqPop.offset) :: rest) :
    step s = .next ((s.after rest).takeAccessError.returnWord 0) := by
  have hempty : s.evq.isEmpty = true := List.isEmpty_iff.mpr hevq
  refine (takeTurn_host ha rfl).trans (congrArg _ ?_)
  simp only [State.hostStep, State.hostRead, accessed_offset, if_true, hempty]

end

/-- Settles O54: a read and a write that reach no register, and the pop of an empty queue. -/
theorem csrAccessErrors : Obligations.CsrAccessErrors := by
  intro s bytes off v rest
  refine ⟨fun herr => ?_, fun hevq => step_pop_of_empty (s := s.reading Csr.evqPop.offset rest) hevq rfl⟩
  have hnone := accessed_eq_none herr
  exact ⟨step_read_of_unreached (s := { s with agenda := _ }) hnone rfl,
    step_write_of_unreached (s := { s with agenda := _ }) hnone rfl⟩

end Sys2Proof.Machine
end

section
/-! PROOFS. The state after power-on (70_reset_and_hazards.md R310): it is sound and meets both gain laws, every register
reads its word of the power-on column, and the power-on input gives it from any state. -/

namespace Sys2Proof.Machine

/-! ## Soundness -/

/-- Settles O9: the invariant and the two gain laws, each as power-on keeps it. -/
theorem resetMeetsInvariant : Obligations.ResetMeetsInvariant :=
  ⟨fun _ hlegal => ⟨resetOf_inv hlegal, Envelope.law_of_zero rfl rfl, resetOf_pgLaw hlegal⟩, resetOf_inv (by decide)⟩

/-! ## The power-on column of the CSR map -/

/-- No template is loaded at power-on, so no bit of SYNC_TVALID is set. -/
theorem resetOf_validWord (c : Config) : (State.resetOf c).sync.validWord = 0 := by
  have hsum : ∀ n, (List.replicate n Template.reset).foldr (fun t acc => 2 * acc + t.v.toNat) 0 = 0 := by
    intro n
    induction n with
    | zero => rfl
    | succ n ih => rw [List.replicate_succ, List.foldr_cons, ih]; rfl
  exact congrArg (BitVec.ofNat 32) (hsum c.maxTemplates)

/-- No interrupt is enabled at power-on (60_exceptions.md R290). -/
theorem resetOf_irqLine (c : Config) : (State.resetOf c).irqLine = false := by
  simp [State.irqLine, State.resetOf]

theorem resetOf_hold (c : Config) : (State.resetOf c).hold = false := hold_of_incomplete rfl

/-- Every field of STATUS is 0 at power-on (10_state.md R33). -/
theorem resetOf_statusWord (c : Config) : (State.resetOf c).statusWord = 0 := by
  rw [State.statusWord, resetOf_irqLine, resetOf_hold]
  simp [State.resetOf, Bank.reset, Sequencer.reset, PsState.code, Assembly.isPartial]

/-- The power-on column is the words of the registers in the power-on state, with STATUS in its place (10_state.md R31). -/
theorem powerOnWords_eq (c : Config) :
    powerOnWords c = (registerWords (State.resetOf c)).insertIdx 2 (Csr.status.offset, 0) := by
  have hevq : countWord 0x030 (State.resetOf c).evq.length = 0 := countWord_of_lt (Nat.two_pow_pos 32)
  have hwin : BitVec.ofNat 32 c.egWindowRst.toNat = c.egWindowRst.setWidth 32 := BitVec.ofNat_toNat 32 c.egWindowRst
  have htpl := validWord_eq (State.resetOf c).sync
  rw [resetOf_validWord] at htpl
  simp only [powerOnWords, registerWords, ← htpl, hevq, ← hwin]
  simp [State.resetOf, Bank.reset, Sequencer.reset, Csr.offset]

/-- STATUS stands third in the column; every other word is that of the register's read in any state. -/
theorem mem_powerOnWords {c : Config} {p : BitVec 12 × Word} (hp : p ∈ powerOnWords c) :
    p = (Csr.status.offset, 0) ∨ p ∈ registerWords (State.resetOf c) := by
  rw [powerOnWords_eq] at hp
  exact (List.mem_insertIdx (by rw [registerWords_eq, List.length_map]; decide)).mp hp

/-- A read of STATUS after power-on, whatever turns follow. -/
theorem step_read_status_resetOf (c : Config) (rest : List Turn) :
    step ((State.resetOf c).reading Csr.status.offset rest) =
      .next { State.resetOf c with agenda := rest, hostReads := [0] } := by
  have hword : ((State.resetOf c).reading Csr.status.offset rest).csrWord .status = 0 :=
    (csrWord_withHost (State.resetOf c) _ [] .status).trans (resetOf_statusWord c)
  have hread := step_read (s := (State.resetOf c).reading Csr.status.offset rest) (r := .status) (by decide) rfl
  rw [hword] at hread
  exact hread

/-! ## Idle, and the power-on input -/

/-- After power-on the engine stands still: there is nothing to perform or to receive (10_state.md R20). -/
theorem step_resetOf (c : Config) : step (State.resetOf c) = .next (State.resetOf c) :=
  (engineNeverHalts.2 (State.resetOf c) rfl).mpr (.inr ⟨rfl, rfl⟩)

theorem step_powerOn {s : State} {rest : List Turn} (ha : s.agenda = .powerOn :: rest) :
    step s = .next (s.after rest).powerOn := by
  simp only [step, State.takeTurn, ha]

/-- Settles O60: the registers by their words, the hidden state unit by unit, and the power-on turn. -/
theorem powerOnValues : Obligations.PowerOnValues := by
  refine ⟨fun c p rest hp => ?_, fun c => ?_, fun s rest ha => step_powerOn ha⟩
  · obtain rfl | hp := mem_powerOnWords hp
    · exact step_read_status_resetOf c rest
    · exact readsAreIdempotent.1 (State.resetOf c) rest p hp
  · have hbanks : ∀ b ∈ [(State.resetOf c).filt.fir, (State.resetOf c).filt.hb], b.taps = 0 ∧ b.valid = false ∧
        b.hist = List.replicate (c.maxTaps - 1) 0 ∧ b.poison = false := by
      simp [State.resetOf, Bank.reset]
    have hslots : ∀ t ∈ (State.resetOf c).sync.tpl, t.v = false := fun t ht => by
      rw [List.eq_of_mem_replicate ht]; rfl
    exact ⟨rfl, rfl, hbanks, rfl, rfl, rfl, rfl, rfl, List.length_replicate, hslots, rfl, rfl, rfl, rfl, rfl, rfl, rfl,
      resetOf_irqLine c, step_resetOf c⟩

end Sys2Proof.Machine
end
